-- ==== Sys2Proof/Config.lean ====
section
/-! DEFINITION. The fixed numbers of the part, and what the spec leaves open: free values without a body. -/

namespace Sys2Proof.Config

/-- Whether the device sees the `n`-th high of an activity line that is shorter than 1 ms (R95: "Whether a shorter
high time is seen is the device's choice, made once for each such high"). A free value: it has no body, and the
counter of such highs in the state picks a fresh one each time (log entry 1). -/
opaque shortHighSeen : Nat → Bool

/-- Byte `i` of the record that PEEK returns where no record held is numbered C, with N and the lag as they stand. R163
has PEEK complete with "the record numbered C"; the spec says nothing of a C that is not held, which only a lag that has
saturated can leave. A free value: it has no body, and as R163 asks, repeated PEEKs return the same (log entry 25). -/
opaque unheldRecordByte (cursor next : BitVec 32) (lag i : Nat) : BitVec 8

/-- Slices in a day (scope, "List of Time Units"). -/
def slicesPerDay : Nat := 691200

/-- Slices in a 15-minute slot (scope, "List of Time Units"). -/
def slicesPerSlot : Nat := 7200

/-- Ordinary records are appended while fewer than this many are held (R155). -/
def ordinaryPlaces : Nat := 255

/-- LOG_HIGH is true at this many records held (R142). -/
def logHighMark : Nat := 192

/-- The shortest gap run that offers a GAP record (R91). -/
def gapRecordLength : Nat := 8

/-- The pause, in slices, that closes a prohibited episode (R113). -/
def episodePause : Nat := 8

/-- The age at which an event closes with cause LONG (R123). -/
def eventLongAge : Nat := 65535

/-- The most days the rest-day list holds (R12). -/
def restDayPlaces : Nat := 16

/-- The ceiling of a 16-bit saturating counter (R30, R64, R106, R156). -/
def sat16 : Nat := 65535

/-- The ceiling of a 32-bit saturating counter (R83, R112, R162). -/
def sat32 : Nat := 4294967295

end Sys2Proof.Config
end

