-- ==== Sys2Proof/Word.lean ====
section
/-! DEFINITION. The byte, the channel and line numbers, and a fixed group of eight things (a channel's or a line's
state, one for each of the numbers 0 to 7). -/

namespace Sys2Proof

/-- One byte as it is clocked over a port, carried on the head link or stored in a record. -/
abbrev Byte := BitVec 8

/-- A channel, 0 to 7 (scope, "Names": head address a serves channel a − 1). -/
abbrev Channel := Fin 8

/-- An activity line ACT0 to ACT7 or an interlock line OUT0 to OUT7. -/
abbrev Line := Fin 8

/-- Eight things of one kind, numbered 0 to 7. -/
structure Oct (α : Type) where
  n0 : α
  n1 : α
  n2 : α
  n3 : α
  n4 : α
  n5 : α
  n6 : α
  n7 : α
  deriving DecidableEq, Repr

/-- The thing with number `i`. -/
def Oct.get {α : Type} (o : Oct α) (i : Fin 8) : α :=
  match i.val with
  | 0 => o.n0
  | 1 => o.n1
  | 2 => o.n2
  | 3 => o.n3
  | 4 => o.n4
  | 5 => o.n5
  | 6 => o.n6
  | _ => o.n7

/-- The group whose thing with number `i` is `f i`. -/
def Oct.ofFn {α : Type} (f : Fin 8 → α) : Oct α :=
  ⟨f 0, f 1, f 2, f 3, f 4, f 5, f 6, f 7⟩

/-- The group with the thing numbered `i` replaced. -/
def Oct.set {α : Type} (o : Oct α) (i : Fin 8) (a : α) : Oct α :=
  Oct.ofFn fun j => if j = i then a else o.get j

/-- Eight equal things. -/
def Oct.fill {α : Type} (a : α) : Oct α := ⟨a, a, a, a, a, a, a, a⟩

/-- A group with each thing changed by one function. -/
def Oct.map {α β : Type} (f : α → β) (o : Oct α) : Oct β :=
  ⟨f o.n0, f o.n1, f o.n2, f o.n3, f o.n4, f o.n5, f o.n6, f o.n7⟩

/-- The eight things in the order of their numbers. -/
def Oct.toList {α : Type} (o : Oct α) : List α :=
  [o.n0, o.n1, o.n2, o.n3, o.n4, o.n5, o.n6, o.n7]

/-- Some thing of the group meets the test. -/
def Oct.any {α : Type} (o : Oct α) (p : α → Bool) : Bool := o.toList.any p

end Sys2Proof
end

