-- ==== Sys2Proof/Syntax.lean ====
section
/-! DEFINITION. The commands of the part: one constructor for each row of spec/opcode_table.json. A row is a step of
the part, "each whole and indivisible" (95_what_each_step_holds.md). A port command carries the bytes of its
transaction after the command code, just as they were clocked in (R172, R197), so that the frame checks of R173 are
part of its meaning. -/

namespace Sys2Proof

/-- The two SPI slave ports (R172; codes in R194). -/
inductive Port where
  | site
  | authority
  deriving DecidableEq, Repr

/-- A step of the part. `heard` is, for a boundary, the characters heard so far of a frame still in reception there
(R22; empty when none is), and for FRAME_RECEIVED the characters of the frame that has ended (R25). `rest` is the
bytes clocked in after the first byte of a transaction (R172). -/
inductive Instr where
  /-- POWER_ON (R1): the supply rises through the start-up threshold. -/
  | powerOn
  /-- SLICE_CLOCK_START (R1): the crystal is running after power-on. -/
  | sliceClockStart
  /-- NRST_LOW (R1): NRST falls. -/
  | nrstLow
  /-- NRST_RELEASE (R1): NRST is released. -/
  | nrstRelease
  /-- BOUNDARY (R1): the instant between two slices. -/
  | boundary (heard : List Byte)
  /-- DAY_ROLLOVER (R3): the boundary at which the slice-of-day passes 691 199. -/
  | dayRollover (heard : List Byte)
  /-- DAY_WRAP (R4): the boundary at which the day number passes 65535. -/
  | dayWrap (heard : List Byte)
  /-- FRAME_RECEIVED (R25): HB_RX has been idle for the inter-frame gap. -/
  | frameReceived (heard : List Byte)
  /-- LINK_ACQUIRED (R34): the boundary at which channel `c`'s acquire count reaches 3. -/
  | linkAcquired (c : Channel) (heard : List Byte)
  /-- HEAD_LOSS (R35): the boundary at which channel `c`'s miss count reaches LOSS_COUNT. -/
  | headLoss (c : Channel) (heard : List Byte)
  /-- EVENT_HOLD_CLOSE (R122): the boundary at which the hold of channel `c`'s event reaches 0. -/
  | eventHoldClose (c : Channel) (heard : List Byte)
  /-- EVENT_LONG_CLOSE (R123): the boundary at which the age of channel `c`'s event reaches 65 535. -/
  | eventLongClose (c : Channel) (heard : List Byte)
  /-- EPISODE_PAUSE_CLOSE (R113): the boundary at which the episode's pending count reaches 8. -/
  | episodePauseClose (heard : List Byte)
  /-- ACT_RISE (R100): line `l` rises; `short` says that this high is shorter than 1 ms (R95). -/
  | actRise (l : Line) (short : Bool)
  /-- ACT_FALL (R100): line `l` falls. -/
  | actFall (l : Line)
  /-- IGNORED_TRANSACTION (R172): chip-select rises with no whole byte clocked in, or under or after an NRST low. -/
  | ignoredTransaction (p : Port)
  /-- UNKNOWN_COMMAND (R173): a command transaction whose code names no command. -/
  | unknownCommand (p : Port) (code : Byte) (rest : List Byte)
  /-- READ_RESPONSE (R176): a transaction whose first byte is 00h. -/
  | readResponse (p : Port) (rest : List Byte)
  /-- SET_TIME (R19). -/
  | setTime (p : Port) (rest : List Byte)
  /-- SET_CALENDAR_SLOTS (R10). -/
  | setCalendarSlots (p : Port) (rest : List Byte)
  /-- SET_CLASS (R17). -/
  | setClass (p : Port) (rest : List Byte)
  /-- SET_DAY_RULES (R11). -/
  | setDayRules (p : Port) (rest : List Byte)
  /-- ADD_REST_DAY (R13). -/
  | addRestDay (p : Port) (rest : List Byte)
  /-- DROP_REST_DAY (R14). -/
  | dropRestDay (p : Port) (rest : List Byte)
  /-- CHANNEL_ON (R38). -/
  | channelOn (p : Port) (rest : List Byte)
  /-- CHANNEL_OFF (R39). -/
  | channelOff (p : Port) (rest : List Byte)
  /-- CLEAR_COUNTERS (R31). -/
  | clearCounters (p : Port) (rest : List Byte)
  /-- CUT (R66). -/
  | cut (p : Port) (rest : List Byte)
  /-- SET_GAP (R92). -/
  | setGap (p : Port) (rest : List Byte)
  /-- SET_ACTIVITY_LINES (R96). -/
  | setActivityLines (p : Port) (rest : List Byte)
  /-- SET_BACKGROUND (R109). -/
  | setBackground (p : Port) (rest : List Byte)
  /-- SET_EVENT (R129). -/
  | setEvent (p : Port) (rest : List Byte)
  /-- LOCK_ROUTING (R146). -/
  | lockRouting (p : Port) (rest : List Byte)
  /-- RESTART (R182). -/
  | restart (p : Port) (rest : List Byte)
  /-- FETCH (R159). -/
  | fetch (p : Port) (rest : List Byte)
  /-- RELEASE (R160). -/
  | release (p : Port) (rest : List Byte)
  /-- SET_WARN_FRACTION (R136). -/
  | setWarnFraction (p : Port) (rest : List Byte)
  /-- ACTIVITY_PULSE (R97). -/
  | activityPulse (p : Port) (rest : List Byte)
  /-- PEEK (R163). -/
  | peek (p : Port) (rest : List Byte)
  /-- ADVANCE (R164). -/
  | advance (p : Port) (rest : List Byte)
  /-- SET_ROUTE (R144). -/
  | setRoute (p : Port) (rest : List Byte)
  /-- SET_EDGES (R99). -/
  | setEdges (p : Port) (rest : List Byte)
  /-- CLEAR_EDGES (R101). -/
  | clearEdges (p : Port) (rest : List Byte)
  /-- READ_EDGES (R102). -/
  | readEdges (p : Port) (rest : List Byte)
  /-- SET_ATTENTION (R191). -/
  | setAttention (p : Port) (rest : List Byte)
  /-- LATCH (R184). -/
  | latch (p : Port) (rest : List Byte)
  /-- READ_SNAPSHOT (R187). -/
  | readSnapshot (p : Port) (rest : List Byte)
  /-- READ_DEVICE_STATUS (R188). -/
  | readDeviceStatus (p : Port) (rest : List Byte)
  /-- READ_CHANNEL_STATUS (R189). -/
  | readChannelStatus (p : Port) (rest : List Byte)
  /-- READ_CONFIG (R190). -/
  | readConfig (p : Port) (rest : List Byte)
  /-- END_OF_SYNC (R22): the SYNC frame has been sent. -/
  | endOfSync
  /-- CHIP_SELECT_FALL (R172): a port's chip-select falls. -/
  | chipSelectFall (p : Port)
  deriving DecidableEq, Repr

end Sys2Proof
end

