-- ==== Sys2Proof/Machine/State.lean ====
section
/-! DEFINITION. Everything the spec gives the part to hold, as plain data, block by block (scope, "List of Blocks"),
and its value right after power-on. -/

namespace Sys2Proof.Machine

/-! ### Why a step can stop -/

/-- The spec describes no fault of the part: every command that reaches it has an effect or an answer, so no step
faults and the type has no constructor. -/
inductive Fault where
  deriving DecidableEq, Repr

/-- The ways in which a step is turned away without a meaning. -/
inductive Refusal where
  /-- Raised by an arm of exec whose command has no meaning yet (no arm is left so). Safe. -/
  | notModelled (mnemonic : String)
  /-- Raised by UNKNOWN_COMMAND given a first byte that is 00h or names a command: that transaction is another row of
  the table (R172, R173), so the term is ill-formed (log entry 9). Safe: nothing is claimed of it. -/
  | codeNamesACommand
  deriving DecidableEq, Repr

/-! ### Time and the calendar (chapter 1) -/

/-- Site time: day number and slice-of-day (R2). -/
structure Time where
  day : BitVec 16
  sod : Fin 691200
  deriving DecidableEq, Repr

/-- A class number, 0 to 11 (R16). -/
abbrev ClassNo := Fin 12

/-- The two day profiles (R8, R9). -/
inductive Profile where
  | working
  | rest
  deriving DecidableEq, Repr

/-- The five interval lengths (R16, "List of Interval Lengths"). -/
inductive IntervalLength where
  | min5
  | min10
  | min15
  | min30
  | min60
  deriving DecidableEq, Repr

/-- One entry of the class table (R16). -/
structure ClassParams where
  limit : Nat
  length : IntervalLength
  lmax : Nat
  peak : Nat
  plant : Bool
  deriving DecidableEq, Repr

/-- A slice tag (R5). Its slot is its slice-of-day div 7200 (`slotOf`). -/
structure Tag where
  time : Time
  profile : Profile
  cls : ClassNo
  plant : Bool
  timeValid : Bool
  deriving DecidableEq, Repr

/-- The slice that ended last, whose results are not yet accounted, with the mark of a voided slice (R20). -/
structure EndedSlice where
  tag : Tag
  voided : Bool
  deriving DecidableEq, Repr

/-- The timebase and calendar block. `slice` is the tag of the slice in progress (none before the first boundary
after a reset), `lastSlice` the slice before it. The tag two slices back is dropped at the deadline that ends with
the same boundary (R5), so it is never held between two steps (log entry 20). -/
structure Timebase where
  time : Time
  timeValid : Bool
  weekdayOffset : Fin 7
  profile : Profile
  slotClass : ClassNo
  slice : Option Tag
  lastSlice : Option EndedSlice
  workingSlots : Vector ClassNo 96
  restSlots : Vector ClassNo 96
  restWeekdays : BitVec 7
  defaultClass : ClassNo
  calendarEnable : Bool
  restDays : List (BitVec 16)
  classes : Vector ClassParams 12
  deriving DecidableEq, Repr

/-! ### The head link (chapter 2) -/

/-- A held REPORT: its level, peak and flags bytes as sent (R29, R195). -/
structure Report where
  level : BitVec 16
  peak : BitVec 16
  flags : Byte
  deriving DecidableEq, Repr

/-- Link states (R33). -/
inductive LinkState where
  | off
  | search
  | live
  | lost
  deriving DecidableEq, Repr

/-- A finding, or the slice result handed on (R32, R37): level, clamped peak and overload mark. -/
inductive SliceResult where
  | missing
  | cal
  | level (l p : Nat) (overload : Bool)
  deriving DecidableEq, Repr

/-- The kind and level of the last result handed (R37). -/
inductive KeptResult where
  | missing
  | cal
  | level (l : Nat)
  deriving DecidableEq, Repr

/-- The head link controller's device-wide state. `driverOn` is HB_DE; while it is on the SYNC of `syncTag` is on
HB_TX. `inFrame` is what has been heard of a frame still in reception (log entry 18). -/
structure HeadLink where
  driverOn : Bool
  syncTag : Option Byte
  inFrame : List Byte
  crc : Nat
  stray : Nat
  deriving DecidableEq, Repr

/-! ### Causes, verdicts and refusals (codes in R194) -/

/-- Close and end causes. -/
inductive Cause where
  | length
  | classChange
  | cut
  | timeStep
  | channelOff
  | restart
  | hold
  | long
  | pause
  | level
  | cal
  deriving DecidableEq, Repr

/-- Verdict of a closed interval (R75). -/
inductive AssessVerdict where
  | compliant
  | exceeded
  | indeterminate
  | invalid
  deriving DecidableEq, Repr

/-- Why a gap run ended by LEVEL was not concealed (R85). -/
inductive ConcealRefusal where
  | tooLong
  | noLevelBefore
  | intervalClosed
  | intervalStart
  deriving DecidableEq, Repr

/-- Allowance states (R52). -/
inductive Allowance where
  | clear
  | warning
  | exhausted
  deriving DecidableEq, Repr

/-! ### The level engine and the event detector, per channel (chapters 4, 5, 7, 8) -/

/-- An open interval context (R54). The energy sums are exact; R46 bounds them below 2^80. -/
structure Interval where
  cls : ClassNo
  limit : Nat
  length : IntervalLength
  lmax : Nat
  peak : Nat
  cap : Nat
  openTime : Time
  planned : Nat
  elapsed : Nat
  measured : Nat
  concealed : Nat
  missing : Nat
  cal : Nat
  sumTot : Nat
  sumBg : Nat
  nbg : Nat
  lmaxSoFar : Option Nat
  peakMax : Option Nat
  eventCount : Nat
  activitySlices : Nat
  short : Bool
  overload : Bool
  lmaxExceeded : Bool
  peakExceeded : Bool
  timeUnset : Bool
  exhaustedAt : Option Nat
  allowance : Allowance
  rs : Nat
  deriving DecidableEq, Repr

/-- A gap run (R80). It is preceded by LEVEL exactly when `before`, its E_before, is present. -/
structure GapRun where
  start : Time
  last : Time
  length : Nat
  before : Option Nat
  homeOpenTime : Time
  homeOpen : Bool
  atStart : Bool
  deriving DecidableEq, Repr

/-- The previous result of a channel (R81), with the energy of a LEVEL. -/
inductive PrevResult where
  | missing
  | cal
  | level (energy : Nat)
  deriving DecidableEq, Repr

/-- The background estimator of a channel (R106): `eb` is none while Eb is unused. -/
structure Estimator where
  eb : Option Nat
  nq : Nat
  deriving DecidableEq, Repr

/-- What an open event holds of the LEVEL slices since its last trigger (R122). -/
structure Pending where
  energy : Nat
  lmax : Nat
  peak : Nat
  deriving DecidableEq, Repr

/-- An OPEN event context (R116). -/
structure Event where
  start : Time
  lastTrigger : Time
  age : Nat
  duration : Nat
  hold : Nat
  sum : Nat
  lmax : Nat
  peak : Nat
  pending : Option Pending
  lmaxThreshold : Nat
  peakThreshold : Nat
  homeClass : ClassNo
  homeOpenTime : Time
  suppressed : Bool
  deriving DecidableEq, Repr

/-- All that is held for one channel: link state, counts, held report, last result and LATE and DUP (chapter 2);
open interval, gap run and previous result (chapters 4, 5); background estimator (chapter 6); event (chapter 7). -/
structure ChannelState where
  link : LinkState
  acquire : Nat
  miss : Nat
  held : Option Report
  lastResult : Option KeptResult
  late : Nat
  dup : Nat
  interval : Option Interval
  gap : Option GapRun
  prev : Option PrevResult
  background : Estimator
  event : Option Event
  deriving DecidableEq, Repr

/-! ### The activity monitor (chapter 6) -/

/-- The activity verdict of an ended slice (R98). -/
structure ActivityVerdict where
  slice : Time
  lines : BitVec 8
  pulsed : Bool
  active : Bool
  quiet : Bool
  prohibited : Bool
  voided : Bool
  deriving DecidableEq, Repr

/-- An open prohibited episode (R112). -/
structure Episode where
  start : Time
  last : Time
  span : Nat
  count : Nat
  pause : Nat
  lines : BitVec 8
  cls : ClassNo
  deriving DecidableEq, Repr

/-- The activity monitor's device-wide state. `level` is the present level of each line; `unseen` marks a high that
the device has not seen (R95); `quiet` is Q. `newVerdict` is the verdict of the slice that ended last, `oldVerdict`
that of the slice before it. -/
structure Activity where
  level : BitVec 8
  unseen : BitVec 8
  highSeen : BitVec 8
  pulse : Bool
  enable : BitVec 8
  quiet : Nat
  newVerdict : Option ActivityVerdict
  oldVerdict : Option ActivityVerdict
  episode : Option Episode
  deriving DecidableEq, Repr

/-- The device settings of chapters 5 to 8. -/
structure Settings where
  concealMax : Nat
  lossCount : Nat
  bgShift : Nat
  bgMin : Nat
  quietHold : Nat
  eventHold : Nat
  eventCap : Nat
  warnFraction : Nat
  deriving DecidableEq, Repr

/-! ### The interlock matrix (chapter 8) -/

/-- Interlock sources (R139). -/
inductive Source where
  | low
  | high
  | warn (c : Channel)
  | exhaust (c : Channel)
  | warnAny
  | exhaustAny
  | eventAny
  | prohibitedSlot
  | prohibitedActivity
  | headLostAny
  | logHigh
  deriving DecidableEq, Repr

/-- Polarity of a route (R138). -/
inductive Polarity where
  | activeHigh
  | activeLow
  deriving DecidableEq, Repr

/-- The route of one interlock line (R138). -/
structure Route where
  source : Source
  polarity : Polarity
  deriving DecidableEq, Repr

/-- The interlock matrix: eight routes and the routing lock. -/
structure Matrix where
  routes : Oct Route
  locked : Bool
  deriving DecidableEq, Repr

/-! ### Records and the assessment log (chapter 9) -/

/-- Body of an INTERVAL record (R77). -/
structure IntervalRecord where
  cls : ClassNo
  cause : Cause
  verdict : AssessVerdict
  short : Bool
  overload : Bool
  lmaxExceeded : Bool
  peakExceeded : Bool
  timeUnset : Bool
  eventsSuppressed : Bool
  invalid : Bool
  noBackground : Bool
  dominated : Bool
  limit : Nat
  planned : Nat
  elapsed : Nat
  measured : Nat
  concealed : Nat
  missing : Nat
  cal : Nat
  nbg : Nat
  ltot : Option Nat
  lbg : Option Nat
  lsite : Option Nat
  lmax : Option Nat
  peakMax : Option Nat
  eventCount : Nat
  activitySlices : Nat
  exhaustedAt : Option Nat
  deriving DecidableEq, Repr

/-- Body of a GAP record (R91). -/
structure GapRecord where
  start : Time
  last : Time
  length : Nat
  cause : Cause
  refusal : Option ConcealRefusal
  afterLevel : Bool
  homeOpenTime : Time
  deriving DecidableEq, Repr

/-- Body of an EVENT record (R127). -/
structure EventRecord where
  start : Time
  lastTrigger : Time
  duration : Nat
  homeClass : ClassNo
  homeOpenTime : Time
  lmaxThreshold : Nat
  peakThreshold : Nat
  lmax : Nat
  peakMax : Nat
  exposure : Nat
  cause : Cause
  deriving DecidableEq, Repr

/-- Body of a PROHIBITED record (R115). -/
structure ProhibitedRecord where
  start : Time
  last : Time
  span : Nat
  count : Nat
  lines : BitVec 8
  cls : ClassNo
  cause : Cause
  deriving DecidableEq, Repr

/-- Body of a LOSS record (R156). -/
structure LossBody where
  total : Nat
  intervals : Nat
  events : Nat
  gaps : Nat
  prohibiteds : Nat
  configs : Nat
  first : Time
  last : Time
  deriving DecidableEq, Repr

/-- The change kinds of a CONFIG record with their summaries (R168, R169). -/
inductive ConfigChange where
  | time (new : Time) (weekday : Fin 7) (old : Option Time) (validBefore : Bool)
  | calendar (profile : Profile) (first count : Nat) (codes : List ClassNo) (crc : BitVec 16)
  | cls (n : ClassNo) (params : ClassParams)
  | dayRules (restWeekdays : BitVec 7) (defaultClass : ClassNo) (enable : Bool)
  | restDayAdd (day : BitVec 16) (list : List (BitVec 16))
  | restDayDrop (day : BitVec 16) (list : List (BitVec 16))
  | channelOn (link : LinkState)
  | channelOff (link : LinkState)
  | cut (mask closed : BitVec 8)
  | restart (next : BitVec 32)
  | countersClear (crc stray late dup : Nat)
  | activityLines (stored before : BitVec 8)
  | background (shift min hold : Nat)
  | eventSettings (hold cap : Nat)
  | gapSettings (concealMax lossCount : Nat)
  | warnFraction (stored before : Nat)
  | route (line : Line) (stored before : Route) (locked : Bool)
  | routingLock (before : Bool)
  deriving DecidableEq, Repr

/-- The body of a record, by kind (R150). -/
inductive RecordBody where
  | interval (r : IntervalRecord)
  | gap (r : GapRecord)
  | event (r : EventRecord)
  | prohibited (r : ProhibitedRecord)
  | config (port : Port) (change : ConfigChange)
  | loss (b : LossBody)
  deriving DecidableEq, Repr

/-- A record as it is offered: header channel and time, and body. The log adds only the sequence number (R150). -/
structure Offer where
  channel : Option Channel
  time : Time
  body : RecordBody
  deriving DecidableEq, Repr

/-- A record held by the log. -/
structure Record where
  seq : BitVec 32
  offer : Offer
  deriving DecidableEq, Repr

/-- The LOSS record that is still open, at the newest place (R157). -/
structure OpenLoss where
  seq : BitVec 32
  body : LossBody
  deriving DecidableEq, Repr

/-- The assessment log: its final records, oldest first; the open LOSS record behind them, if one is held; the next
sequence number N; the site cursor C and its lag (R151, R155, R162). -/
structure Log where
  records : List Record
  openLoss : Option OpenLoss
  next : BitVec 32
  cursor : BitVec 32
  lag : Nat
  deriving DecidableEq, Repr

/-! ### The port controllers (chapter 10) -/

/-- Response statuses (R178). -/
inductive Status where
  | ok
  | unknown
  | format
  | privilege
  | range
  | locked
  | full
  | duplicate
  | absent
  | empty
  | nothing
  deriving DecidableEq, Repr

/-- A response: status, COLLIDED flag and data (R178). -/
structure Response where
  status : Status
  collided : Bool
  data : List Byte
  deriving DecidableEq, Repr

/-- An accepted timed command waiting for its boundary (R179). -/
inductive Timed where
  | setTime (time : Time) (weekday : Fin 7)
  | cut (mask : BitVec 8)
  | channelOn (c : Channel)
  | channelOff (c : Channel)
  | restart
  deriving DecidableEq, Repr

/-- Port command states (R174): BUSY holds the pending command, DONE the unread response. -/
inductive CommandState where
  | idle
  | busy (pending : Timed)
  | done (response : Response)
  deriving DecidableEq, Repr

/-- A transaction in progress: the state byte fixed at the fall of chip-select, and whether a reset has fallen on it
since (R172, R183). -/
structure Transaction where
  stateByte : Byte
  spoiled : Bool
  deriving DecidableEq, Repr

/-- One capture of a channel in a snapshot slot (R185, R186). -/
structure Capture where
  latchTime : Time
  link : LinkState
  cls : Option ClassNo
  openTime : Option Time
  planned : Option Nat
  elapsed : Option Nat
  nacc : Option Nat
  runningLevel : Option Nat
  lmax : Option Nat
  backgroundLevel : Option Nat
  nq : Nat
  allowance : Allowance
  rs : Option Nat
  eventOpen : Bool
  eventDuration : Option Nat
  lastResult : Option KeptResult
  deriving DecidableEq, Repr

/-- One port: its controller (command state with response buffer, COLLIDED, snapshot slots, attention mask), the
transaction in progress, the activity monitor's edge enables and flags for it (R99, R100), and the bytes it clocked
out in the last transaction it took, filler left out (log entry 13). -/
structure PortState where
  command : CommandState
  collided : Bool
  transaction : Option Transaction
  clockedOut : List Byte
  slots : Oct (Option Capture)
  attention : BitVec 8
  rise : BitVec 8
  fall : BitVec 8
  edges : BitVec 8
  deriving DecidableEq, Repr

/-- The state of the part. `nrstLow` is the NRST pin held low; `crystalRunning` says that the crystal has started
since power-on; `shortHighs` counts the highs shorter than 1 ms, for the free value of R95 (the model's own field);
`pending` is the queue of commands waiting to be taken, the first at the front (the model's own field). -/
structure State where
  nrstLow : Bool
  crystalRunning : Bool
  timebase : Timebase
  headLink : HeadLink
  channels : Oct ChannelState
  activity : Activity
  settings : Settings
  log : Log
  matrix : Matrix
  site : PortState
  authority : PortState
  shortHighs : Nat
  pending : List Instr
  deriving DecidableEq, Repr

/-! ### The values at power-on -/

/-- Day 0, slice 0 (R2). -/
def Time.zero : Time := ⟨0, 0⟩

/-- Reset values of a class (R16). -/
def ClassParams.reset : ClassParams := ⟨1400, .min60, 1400, 1500, true⟩

/-- The timebase and calendar after power-on (chapter 1, "List of Timebase and Calendar State"). -/
def Timebase.reset : Timebase where
  time := Time.zero
  timeValid := false
  weekdayOffset := 0
  profile := .working
  slotClass := 0
  slice := none
  lastSlice := none
  workingSlots := Vector.replicate 96 0
  restSlots := Vector.replicate 96 0
  restWeekdays := 0
  defaultClass := 0
  calendarEnable := false
  restDays := []
  classes := Vector.replicate 12 ClassParams.reset

/-- The head link controller after power-on (R40). -/
def HeadLink.reset : HeadLink := ⟨false, none, [], 0, 0⟩

/-- A reset background estimator (R106). -/
def Estimator.reset : Estimator := ⟨none, 0⟩

/-- A channel after power-on (R40, R79, R94, R106, R130). -/
def ChannelState.reset : ChannelState where
  link := .off
  acquire := 0
  miss := 0
  held := none
  lastResult := none
  late := 0
  dup := 0
  interval := none
  gap := none
  prev := none
  background := Estimator.reset
  event := none

/-- The device settings after power-on (R93, R109, R116, R136). -/
def Settings.reset : Settings := ⟨8, 40, 9, 2400, 480, 16, 32, 64⟩

/-- The activity monitor after power-on with the lines at the levels `level` (chapter 6, "List of Activity Monitor
State"): Q is QUIET_HOLD (R104). -/
def Activity.resetAt (level : BitVec 8) : Activity where
  level := level
  unseen := 0
  highSeen := 0
  pulse := false
  enable := 0
  quiet := Settings.reset.quietHold
  newVerdict := none
  oldVerdict := none
  episode := none

/-- The log after power-on (R171). -/
def Log.reset : Log := ⟨[], none, 1, 1, 0⟩

/-- The interlock matrix after power-on (R148). -/
def Matrix.reset : Matrix := ⟨Oct.fill ⟨.low, .activeHigh⟩, false⟩

/-- A port after power-on (R183, R99, R102), with the transaction `t` in progress on its pins. -/
def PortState.resetWith (t : Option Transaction) : PortState where
  command := .idle
  collided := false
  transaction := t
  clockedOut := []
  slots := Oct.fill none
  attention := 0
  rise := 0
  fall := 0
  edges := 0

/-- The part right after power-on, before the crystal runs. The pins, whose levels the world sets, are taken as: NRST
high, every activity line low, no transaction in progress (log entry 2). -/
def State.reset : State where
  nrstLow := false
  crystalRunning := false
  timebase := Timebase.reset
  headLink := HeadLink.reset
  channels := Oct.fill ChannelState.reset
  activity := Activity.resetAt 0
  settings := Settings.reset
  log := Log.reset
  matrix := Matrix.reset
  site := PortState.resetWith none
  authority := PortState.resetWith none
  shortHighs := 0
  pending := []

end Sys2Proof.Machine
end

