-- ==== Sys2Proof/Machine/Levels.lean ====
section
/-! DEFINITION. Chapter 3, whole: the energy scale, the conversion back to levels, means, the background step, the
concealment energy, the exposure level, the allowance quantities. All of it is exact arithmetic on natural numbers
(chapter 3, opening; log entry 3). -/

namespace Sys2Proof.Machine

/-- The mantissa table T (R41): entry f is 10000 × 10^(f/100), rounded to the nearest integer. -/
def mantissaTable : List Nat :=
  [ 10000, 10233, 10471, 10715, 10965, 11220, 11482, 11749, 12023, 12303,
    12589, 12882, 13183, 13490, 13804, 14125, 14454, 14791, 15136, 15488,
    15849, 16218, 16596, 16982, 17378, 17783, 18197, 18621, 19055, 19498,
    19953, 20417, 20893, 21380, 21878, 22387, 22909, 23442, 23988, 24547,
    25119, 25704, 26303, 26915, 27542, 28184, 28840, 29512, 30200, 30903,
    31623, 32359, 33113, 33884, 34674, 35481, 36308, 37154, 38019, 38905,
    39811, 40738, 41687, 42658, 43652, 44668, 45709, 46774, 47863, 48978,
    50119, 51286, 52481, 53703, 54954, 56234, 57544, 58884, 60256, 61660,
    63096, 64565, 66069, 67608, 69183, 70795, 72444, 74131, 75858, 77625,
    79433, 81283, 83176, 85114, 87096, 89125, 91201, 93325, 95499, 97724 ]

/-- T[f] (R41). -/
def mantissa (f : Nat) : Nat := mantissaTable.getD f 0

/-- E(L), the energy of a level code from 200 to 1400 (R42). -/
def energy (l : Nat) : Nat := mantissa (l % 100) * 10 ^ (l / 100 - 2)

/-- The largest k for which 10000 × 10^k is not above m, for m of 10000 or more (R43): how often m can be divided by
ten before fewer than six digits are left. `fuel` bounds the search; 30 covers every m below 10^34. -/
def decades : Nat → Nat → Nat
  | 0, _ => 0
  | fuel + 1, m => if m < 100000 then 0 else decades fuel (m / 10) + 1

/-- The largest index f for which T[f] is not above q (R43); the table is strictly increasing, so it is one less than
the number of entries not above q. -/
def tableStep (q : Nat) : Nat := mantissaTable.countP (fun t => decide (t ≤ q)) - 1

/-- Lconv(m), the level of an energy (R43). -/
def lconv (m : Nat) : Nat :=
  if m < 10000 then 200
  else
    let k := decades 30 m
    100 * (k + 2) + tableStep (m / 10 ^ k)

/-- mean(Σ, n), absent for n = 0 (R44). -/
def mean (sum n : Nat) : Option Nat := if n = 0 then none else some (sum / n)

/-- The level of a mean, absent where the mean is (R44). -/
def meanLevel (sum n : Nat) : Option Nat := (mean sum n).map lconv

/-- The background average step (R47): the first update sets Eb, a later one replaces 1/2^s of it
(log entry 10). -/
def backgroundStep (eb : Option Nat) (e s : Nat) : Nat :=
  match eb with
  | none => e
  | some b => b - b / 2 ^ s + e / 2 ^ s

/-- The three bands of the background correction, chosen by D = Ltot − Lbg alone (R48). -/
inductive Band where
  | uncorrected
  | corrected
  | dominated
  deriving DecidableEq, Repr

/-- The band of D = Ltot − Lbg (R48). -/
def correctionBand (ltot lbg : Nat) : Band :=
  let d : Int := (ltot : Int) - (lbg : Int)
  if 100 ≤ d then .uncorrected else if 30 ≤ d then .corrected else .dominated

/-- Lsite by the band (R48), from the two means of which Ltot and Lbg are the levels. -/
def siteLevel (band : Band) (meanTot meanBg : Nat) : Option Nat :=
  match band with
  | .uncorrected => some (lconv meanTot)
  | .corrected => some (lconv (meanTot - meanBg))
  | .dominated => none

/-- Ec, the concealment energy (R49). -/
def concealEnergy (before after : Nat) : Nat := (before + after) / 2

/-- LE, the exposure level of an event (R50). -/
def exposureLevel (sum : Nat) : Nat := lconv (sum / 8)

/-- A, the allowed energy of an interval (R51). -/
def allowedEnergy (planned limit : Nat) : Nat := planned * energy limit

/-- S, the site energy: ΣEtot − ΣEbg, and 0 where that is negative (R51). -/
def siteEnergy (sumTot sumBg : Nat) : Nat := sumTot - sumBg

/-- R, the remaining energy: A − S, and 0 once S has reached A (R51). -/
def remainingEnergy (a s : Nat) : Nat := a - s

/-- RS, the allowance slices (R51). -/
def allowanceSlices (planned limit sumTot sumBg : Nat) : Nat :=
  remainingEnergy (allowedEnergy planned limit) (siteEnergy sumTot sumBg) / energy limit

/-- The allowance state (R52). -/
def allowanceState (planned limit sumTot sumBg warnFraction : Nat) : Allowance :=
  let a := allowedEnergy planned limit
  let s := siteEnergy sumTot sumBg
  if a ≤ s then .exhausted
  else if remainingEnergy a s * 256 < a * warnFraction then .warning
  else .clear

end Sys2Proof.Machine
end

