-- ==== Sys2Proof/Machine/Operands.lean ====
section
/-! DEFINITION. The operand forms of the port commands (chapters 10 and 11): the widths in which arguments are read,
the length each command accepts and the ports it is permitted to, and the codes of every enumeration. -/

namespace Sys2Proof.Machine

/-! ### Reading arguments, high byte first (R194, R198) -/

/-- Argument byte number `i`. -/
def argByte (args : List Byte) (i : Nat) : Byte := args.getD i 0

/-- A 1-byte argument as a number. -/
def arg1 (args : List Byte) (i : Nat) : Nat := (argByte args i).toNat

/-- A 2-byte argument. -/
def arg2 (args : List Byte) (i : Nat) : Nat := arg1 args i * 256 + arg1 args (i + 1)

/-- A 3-byte argument. -/
def arg3 (args : List Byte) (i : Nat) : Nat := arg2 args i * 256 + arg1 args (i + 2)

/-- A 4-byte argument. -/
def arg4 (args : List Byte) (i : Nat) : Nat := arg2 args i * 65536 + arg2 args (i + 2)

/-- A yes-or-no argument: 1 is yes, 0 is no, anything else is neither (R194). -/
def boolOf (n : Nat) : Option Bool :=
  if n = 0 then some false else if n = 1 then some true else none

/-- A number below `n` as a number of that range, or none. -/
def finOf (n v : Nat) : Option (Fin n) := if h : v < n then some ⟨v, h⟩ else none

/-- A class code read from the low four bits of its byte (R198); none for 12 to 15. -/
def classCode (b : Byte) : Option ClassNo := finOf 12 (b.toNat % 16)

/-- A day-profile code (R194). -/
def profileOf (n : Nat) : Option Profile :=
  if n = 0 then some .working else if n = 1 then some .rest else none

/-- A LENGTH in minutes (R17). -/
def lengthOf (n : Nat) : Option IntervalLength :=
  if n = 5 then some .min5
  else if n = 10 then some .min10
  else if n = 15 then some .min15
  else if n = 30 then some .min30
  else if n = 60 then some .min60
  else none

/-- A polarity code (R194). -/
def polarityOf (n : Nat) : Option Polarity :=
  if n = 0 then some .activeHigh else if n = 1 then some .activeLow else none

/-- An interlock source code (R198, "List of Interlock Source Codes"); 25 and above name no source (R139). -/
def sourceOf (n : Nat) : Option Source :=
  if n = 0 then some .low
  else if n = 1 then some .high
  else if n < 10 then (finOf 8 (n - 2)).map .warn
  else if n < 18 then (finOf 8 (n - 10)).map .exhaust
  else if n = 18 then some .warnAny
  else if n = 19 then some .exhaustAny
  else if n = 20 then some .eventAny
  else if n = 21 then some .prohibitedSlot
  else if n = 22 then some .prohibitedActivity
  else if n = 23 then some .headLostAny
  else if n = 24 then some .logHigh
  else none

/-- A value clamped into a range (R17, R92, R109, R129). -/
def clamp (lo hi v : Nat) : Nat := if v < lo then lo else if hi < v then hi else v

/-! ### Codes written into records and responses (R194, R198) -/

/-- Minutes of a LENGTH (R16). -/
def IntervalLength.minutes : IntervalLength → Nat
  | .min5 => 5
  | .min10 => 10
  | .min15 => 15
  | .min30 => 30
  | .min60 => 60

/-- Slices of a LENGTH: 480 per minute (R16, "List of Interval Lengths"). -/
def IntervalLength.slices (l : IntervalLength) : Nat := l.minutes * 480

/-- Yes, on, true 1; no, off, false 0. -/
def boolCode (b : Bool) : Nat := if b then 1 else 0

/-- Day-profile code. -/
def Profile.code : Profile → Nat
  | .working => 0
  | .rest => 1

/-- Cause code. -/
def Cause.code : Cause → Nat
  | .length => 1
  | .classChange => 2
  | .cut => 3
  | .timeStep => 4
  | .channelOff => 5
  | .restart => 6
  | .hold => 7
  | .long => 8
  | .pause => 9
  | .level => 10
  | .cal => 11

/-- Verdict code. -/
def AssessVerdict.code : AssessVerdict → Nat
  | .compliant => 0
  | .exceeded => 1
  | .indeterminate => 2
  | .invalid => 3

/-- Concealment refusal code. -/
def ConcealRefusal.code : ConcealRefusal → Nat
  | .tooLong => 1
  | .noLevelBefore => 2
  | .intervalClosed => 3
  | .intervalStart => 4

/-- Link state code. -/
def LinkState.code : LinkState → Nat
  | .off => 0
  | .search => 1
  | .live => 2
  | .lost => 3

/-- Allowance state code. -/
def Allowance.code : Allowance → Nat
  | .clear => 0
  | .warning => 1
  | .exhausted => 2

/-- Result kind code. -/
def KeptResult.code : KeptResult → Nat
  | .missing => 0
  | .level _ => 1
  | .cal => 2

/-- The level of a kept result, for LEVEL alone. -/
def KeptResult.level? : KeptResult → Option Nat
  | .level l => some l
  | .missing => none
  | .cal => none

/-- Polarity code. -/
def Polarity.code : Polarity → Nat
  | .activeHigh => 0
  | .activeLow => 1

/-- Interlock source code. -/
def Source.code : Source → Nat
  | .low => 0
  | .high => 1
  | .warn c => 2 + c.val
  | .exhaust c => 10 + c.val
  | .warnAny => 18
  | .exhaustAny => 19
  | .eventAny => 20
  | .prohibitedSlot => 21
  | .prohibitedActivity => 22
  | .headLostAny => 23
  | .logHigh => 24

/-- Port code. -/
def portCode : Port → Nat
  | .site => 0
  | .authority => 1

/-- Status code (R197). -/
def Status.code : Status → Nat
  | .ok => 0
  | .unknown => 1
  | .format => 2
  | .privilege => 3
  | .range => 4
  | .locked => 5
  | .full => 6
  | .duplicate => 7
  | .absent => 8
  | .empty => 9
  | .nothing => 10

/-- Command code of a timed command (R198). -/
def Timed.code : Timed → Nat
  | .setTime _ _ => 0x20
  | .cut _ => 0x2D
  | .channelOn _ => 0x26
  | .channelOff _ => 0x27
  | .restart => 0x2E

/-! ### Fields written high byte first (R194) -/

/-- A 1-byte field. -/
def put1 (n : Nat) : List Byte := [BitVec.ofNat 8 n]

/-- A 2-byte field. -/
def put2 (n : Nat) : List Byte := [BitVec.ofNat 8 (n / 256), BitVec.ofNat 8 n]

/-- A 3-byte field. -/
def put3 (n : Nat) : List Byte := [BitVec.ofNat 8 (n / 65536), BitVec.ofNat 8 (n / 256), BitVec.ofNat 8 n]

/-- A 4-byte field. -/
def put4 (n : Nat) : List Byte :=
  [BitVec.ofNat 8 (n / 16777216), BitVec.ofNat 8 (n / 65536), BitVec.ofNat 8 (n / 256), BitVec.ofNat 8 n]

/-- A field, or all ones over `width` bytes where it is absent (R194). -/
def putOpt {α : Type} (width : Nat) (put : α → List Byte) : Option α → List Byte
  | some a => put a
  | none => List.replicate width 0xFF#8

/-- A time: day in 2 bytes, slice-of-day in 3 (R194). A present time of day 65535 (R2) is written with its day and
slice-of-day as they are (DEDUCED: log entry 24). -/
def putTime (t : Time) : List Byte := put2 t.day.toNat ++ put3 t.sod.val

/-- A time that may be absent, in 5 bytes. -/
def putTime? : Option Time → List Byte := putOpt 5 putTime

/-- A 1-byte field that may be absent. -/
def put1? : Option Nat → List Byte := putOpt 1 put1

/-- A 2-byte field that may be absent. -/
def put2? : Option Nat → List Byte := putOpt 2 put2

/-- A 4-byte field that may be absent. -/
def put4? : Option Nat → List Byte := putOpt 4 put4

/-- A class entry: LIMIT 2, LENGTH in minutes 1, LMAX 2, PEAK 2, PLANT_PERMITTED 1 (R199, CLASS summary). -/
def putClass (c : ClassParams) : List Byte :=
  put2 c.limit ++ put1 c.length.minutes ++ put2 c.lmax ++ put2 c.peak ++ put1 (boolCode c.plant)

/-- A rest-day list: the number of days in 1 byte, then 16 places of 2 bytes, unused places FFFFh (R198, R199). -/
def putRestDays (l : List (BitVec 16)) : List Byte :=
  put1 l.length ++
    ((l.flatMap fun d => put2 d.toNat) ++ List.replicate (2 * Config.restDayPlaces) 0xFF#8).take
      (2 * Config.restDayPlaces)

/-- A route: source code and polarity (R199, ROUTE summary). -/
def putRoute (r : Route) : List Byte := put1 r.source.code ++ put1 r.polarity.code

/-- The CRC register after one bit (R196). -/
def crcShift (r : BitVec 16) : BitVec 16 :=
  if r.msb then (r <<< 1) ^^^ 0x1021#16 else r <<< 1

/-- The CRC register after `n` bits. -/
def crcShifts : Nat → BitVec 16 → BitVec 16
  | 0, r => r
  | n + 1, r => crcShifts n (crcShift r)

/-- The CRC register after one byte: the byte is taken into the high eight bits, then eight shifts (R196). -/
def crcByte (r : BitVec 16) (b : Byte) : BitVec 16 := crcShifts 8 (r ^^^ (b.setWidth 16 <<< 8))

/-- The CRC of a train of bytes: the register starts at FFFFh, with no final inversion (R196). -/
def crc (bytes : List Byte) : BitVec 16 := bytes.foldl crcByte 0xFFFF#16

/-! ### The commands' frames (R173, R180, R198) -/

/-- The argument lengths that a command accepts. -/
inductive ArgLength where
  | exactly (n : Nat)
  | atLeast (n : Nat)
  deriving DecidableEq, Repr

/-- The argument length fits. -/
def ArgLength.fits : ArgLength → Nat → Bool
  | .exactly n, k => k == n
  | .atLeast n, k => n ≤ k

/-- What the frame checks need to know of a command: whether the site port and the authority port may issue it
(R180) and the argument length it accepts (R198, "List of Command Codes"). -/
structure CommandInfo where
  site : Bool
  authority : Bool
  length : ArgLength
  deriving DecidableEq, Repr

/-- The command is permitted to the port (R180). -/
def CommandInfo.permits (k : CommandInfo) : Port → Bool
  | .site => k.site
  | .authority => k.authority

/-- An authority command with `n` argument bytes. -/
def authorityCommand (n : Nat) : CommandInfo := ⟨false, true, .exactly n⟩

/-- A site command with `n` argument bytes. -/
def siteCommand (n : Nat) : CommandInfo := ⟨true, false, .exactly n⟩

/-- A command of both ports with `n` argument bytes. -/
def bothCommand (n : Nat) : CommandInfo := ⟨true, true, .exactly n⟩

/-- SET_CALENDAR_SLOTS: the authority's, of any length from its fixed part upward (R173). -/
def calendarSlotsCommand : CommandInfo := ⟨false, true, .atLeast 3⟩

/-- The outcome of the frame checks: the arguments, or the refusal. -/
inductive FrameCheck where
  | ok (args : List Byte)
  | refuse (status : Status)
  deriving DecidableEq, Repr

/-- Frame checks 2 to 4 of R173, in their order, on the bytes after a known command code. -/
def checkFrame (k : CommandInfo) (p : Port) (rest : List Byte) : FrameCheck :=
  match rest with
  | [] => .refuse .format
  | len :: args =>
    if 250 < len.toNat ∨ args.length ≠ len.toNat then .refuse .format
    else if k.permits p = false then .refuse .privilege
    else if k.length.fits args.length = false then .refuse .format
    else .ok args

end Sys2Proof.Machine
end

