-- ==== Sys2Proof/Machine/Ops.lean ====
section
/-! DEFINITION. The shared operations over the state: sets of channels or lines, saturating counts, the ports, the
assessment log's append rule and cursor (chapter 9), and the offer of a CONFIG record. -/

namespace Sys2Proof.Machine

/-! ### Sets and counters -/

/-- The member `i` of a set held in one byte (R194). -/
def member (set : BitVec 8) (i : Fin 8) : Bool := set.getLsbD i.val

/-- The set of the numbers that meet a test (R194: member n in bit n). -/
def setOf (f : Fin 8 → Bool) : BitVec 8 :=
  BitVec.ofNat 8
    (boolCode (f 0) + 2 * boolCode (f 1) + 4 * boolCode (f 2) + 8 * boolCode (f 3) + 16 * boolCode (f 4) +
      32 * boolCode (f 5) + 64 * boolCode (f 6) + 128 * boolCode (f 7))

/-- The set with member `i` put in or left out. -/
def withMember (set : BitVec 8) (i : Fin 8) (b : Bool) : BitVec 8 :=
  setOf fun j => if j = i then b else member set j

/-- One more, stopping at the 16-bit ceiling (scope, "Saturating counters"). -/
def satInc16 (n : Nat) : Nat := if n < Config.sat16 then n + 1 else Config.sat16

/-- `k` more, stopping at the 32-bit ceiling. -/
def satAdd32 (n k : Nat) : Nat := if n + k < Config.sat32 then n + k else Config.sat32

/-! ### Ports and channels of a state -/

/-- The state of one port. -/
def State.port (s : State) : Port → PortState
  | .site => s.site
  | .authority => s.authority

/-- The state with one port changed. -/
def State.mapPort (s : State) (p : Port) (f : PortState → PortState) : State :=
  match p with
  | .site => { s with site := f s.site }
  | .authority => { s with authority := f s.authority }

/-- The state of one channel. -/
def State.channel (s : State) (c : Channel) : ChannelState := s.channels.get c

/-- The channel is not OFF. -/
def ChannelState.enabled (ch : ChannelState) : Bool := decide (ch.link ≠ .off)

/-- The timed command that the authority port holds pending (R179). -/
def State.pendingTimed (s : State) : Option Timed :=
  match s.authority.command with
  | .busy t => some t
  | .idle => none
  | .done _ => none

/-- The timed command is a time step. -/
def isTimeStep : Option Timed → Bool
  | some (.setTime _ _) => true
  | _ => false

/-! ### The log (R151, R155 to R157, R162) -/

/-- The number of records held, the open LOSS record included. -/
def Log.held (log : Log) : Nat := log.records.length + (if log.openLoss.isSome then 1 else 0)

/-- The open LOSS record as a record. -/
def OpenLoss.record (l : OpenLoss) : Record := ⟨l.seq, none, l.body.first, .loss l.body⟩

/-- Every record held, oldest first. -/
def Log.all (log : Log) : List Record := log.records ++ log.openLoss.toList.map OpenLoss.record

/-- The count of a LOSS record that a body of this kind raises (R156). -/
def LossBody.count (b : LossBody) (time : Time) (body : RecordBody) : LossBody :=
  let b := { b with total := satInc16 b.total, last := time }
  match body with
  | .interval _ => { b with intervals := satInc16 b.intervals }
  | .event _ => { b with events := satInc16 b.events }
  | .gap _ => { b with gaps := satInc16 b.gaps }
  | .prohibited _ => { b with prohibiteds := satInc16 b.prohibiteds }
  | .config _ _ => { b with configs := satInc16 b.configs }
  | .loss _ => b

/-- A new LOSS record's body: every count 0 before its first count (R156). -/
def LossBody.start (time : Time) : LossBody := ⟨0, 0, 0, 0, 0, 0, time, time⟩

/-- Append a record behind all that is held: an open LOSS record becomes final, the record takes N, N and the lag go
on by one (R151, R157, R162). -/
def Log.append (log : Log) (o : Offer) : Log :=
  { log with
    records := log.all ++ [⟨log.next, o⟩]
    openLoss := none
    next := log.next + 1
    lag := satAdd32 log.lag 1 }

/-- Append a new LOSS record that counts `o` first (R155, R156). -/
def Log.openNewLoss (log : Log) (time : Time) (o : Offer) : Log :=
  { log with
    openLoss := some ⟨log.next, (LossBody.start time).count time o.body⟩
    next := log.next + 1
    lag := satAdd32 log.lag 1 }

/-- What the log does with one offered record; `time` is the site time of the slice in progress (R155, R156). -/
def Log.take (log : Log) (time : Time) (o : Offer) : Log :=
  if log.held < Config.ordinaryPlaces then log.append o
  else
    match log.openLoss with
    | some l => { log with openLoss := some { l with body := l.body.count time o.body } }
    | none => log.openNewLoss time o

/-- The log after a batch of offers, each taken as the ones before it have left the log (R152). -/
def Log.takeAll (log : Log) (time : Time) (offers : List Offer) : Log :=
  offers.foldl (fun l o => l.take time o) log

/-- The oldest record held, with its final mark (R159). -/
def Log.oldest (log : Log) : Option (Record × Bool) :=
  match log.records with
  | r :: _ => some (r, true)
  | [] => log.openLoss.map fun l => (l.record, false)

/-- The log without its oldest record (R158, R160). -/
def Log.dropOldest (log : Log) : Log :=
  match log.records with
  | _ :: rs => { log with records := rs }
  | [] => { log with openLoss := none }

/-- How many records the site has missed: the lag above the number held (R163). -/
def Log.skipped (log : Log) : Nat := log.lag - log.held

/-- The log with a cursor older than the oldest record brought up to it, or to N where the log is empty (R163). -/
def Log.catchUp (log : Log) : Log :=
  if log.held < log.lag then
    { log with
      lag := log.held
      cursor := match log.oldest with
        | some (r, _) => r.seq
        | none => log.next }
  else log

/-- The record numbered C, with its final mark (R163); none where no record held has that number. -/
def Log.atCursor (log : Log) : Option (Record × Bool) :=
  match log.records.find? fun r => r.seq == log.cursor with
  | some r => some (r, true)
  | none => (log.openLoss.filter fun l => l.seq == log.cursor).map fun l => (l.record, false)

/-- The cursor moved on by one record (R164). -/
def Log.advanceCursor (log : Log) : Log := { log with cursor := log.cursor + 1, lag := log.lag - 1 }

/-- Offer the CONFIG record of an immediate command, which the log takes at that instant, alone (R152, R154,
R167, R170, R181). -/
def State.offerConfig (s : State) (p : Port) (change : ConfigChange) : State :=
  { s with log := s.log.take s.timebase.time ⟨none, s.timebase.time, .config p change⟩ }

end Sys2Proof.Machine
end

