-- ==== Sys2Proof/Machine/Flags.lean ====
section
/-! DEFINITION. The live conditions of the part: allowance readings (R135), interlock sources and lines (R138 to R143),
the log's conditions (R166), attention conditions, and the levels of OUT, READY and ATTN (R177, R192). None of them is
held: each is formed from the state as it stands. -/

namespace Sys2Proof.Machine

/-- The allowance reading of a channel: CLEAR where no interval is open (R135). -/
def ChannelState.allowance (ch : ChannelState) : Allowance :=
  match ch.interval with
  | some iv => iv.allowance
  | none => .clear

/-- The channel reads WARNING or EXHAUSTED (R139, WARN(c)). -/
def ChannelState.warns (ch : ChannelState) : Bool := decide (ch.allowance ≠ .clear)

/-- The channel reads EXHAUSTED (R139, EXHAUST(c)). -/
def ChannelState.exhausted (ch : ChannelState) : Bool := decide (ch.allowance = .exhausted)

/-- Some channel is LOST (R36, R139). -/
def State.headLost (s : State) : Bool := s.channels.any fun ch => decide (ch.link = .lost)

/-- Some channel's event context is OPEN (R128). -/
def State.eventAny (s : State) : Bool := s.channels.any fun ch => ch.event.isSome

/-- Some channel reads WARNING or EXHAUSTED (R139). -/
def State.warnAny (s : State) : Bool := s.channels.any ChannelState.warns

/-- Some channel reads EXHAUSTED (R139). -/
def State.exhaustAny (s : State) : Bool := s.channels.any ChannelState.exhausted

/-- The tag of the slice in progress carries PLANT_PERMITTED no; false while no slice is in progress (R141). -/
def State.prohibitedSlot (s : State) : Bool :=
  match s.timebase.slice with
  | some t => !t.plant
  | none => false

/-- The log holds 192 records or more (R142). -/
def Log.high (log : Log) : Bool := decide (Config.logHighMark ≤ log.held)

/-- The value of an interlock source (R139). -/
def State.source (s : State) : Source → Bool
  | .low => false
  | .high => true
  | .warn c => (s.channel c).warns
  | .exhaust c => (s.channel c).exhausted
  | .warnAny => s.warnAny
  | .exhaustAny => s.exhaustAny
  | .eventAny => s.eventAny
  | .prohibitedSlot => s.prohibitedSlot
  | .prohibitedActivity => s.activity.episode.isSome
  | .headLostAny => s.headLost
  | .logHigh => s.log.high

/-- The level a route gives its line for its source's value (R138). -/
def Polarity.drive : Polarity → Bool → Bool
  | .activeHigh, b => b
  | .activeLow, b => !b

/-- The level of an interlock line: that of its route, and low while NRST is held low (R138, R143). -/
def State.out (s : State) (l : Line) : Bool :=
  !s.nrstLow && (s.matrix.routes.get l).polarity.drive (s.source (s.matrix.routes.get l).source)

/-- The levels of the eight interlock lines as a set. -/
def State.outs (s : State) : BitVec 8 := setOf s.out

/-- The sources of codes 0 to 24 that are true, source code n in bit n (R198). -/
def State.sources (s : State) : BitVec 32 :=
  BitVec.ofNat 32
    ((List.range 25).foldl
      (fun acc n => acc + (match sourceOf n with | some k => boolCode (s.source k) * 2 ^ n | none => 0)) 0)

/-- The attention conditions of a port, each in its bit of SET_ATTENTION (R137, R192, R193,
R198). -/
def State.conditions (s : State) : Port → BitVec 8
  | .authority =>
    BitVec.ofNat 8
      (boolCode (decide (0 < s.log.held)) + 2 * boolCode s.log.openLoss.isSome + 4 * boolCode s.headLost +
        8 * boolCode s.activity.episode.isSome + 16 * boolCode (decide (s.authority.edges ≠ 0)) +
        32 * boolCode s.exhaustAny)
  | .site =>
    BitVec.ofNat 8
      (boolCode (decide (0 < s.log.lag)) + 2 * boolCode s.warnAny + 4 * boolCode s.exhaustAny +
        8 * boolCode (decide (s.site.edges ≠ 0)) + 16 * boolCode s.eventAny + 32 * boolCode s.headLost)

/-- The conditions that each port has: bits 0 to 5 (R192, R198). -/
def conditionBits : BitVec 8 := 0x3F#8

/-- The level of a port's ATTN line: low while NRST is held low (R183, R192). -/
def State.attn (s : State) (p : Port) : Bool := !s.nrstLow && decide ((s.port p).attention &&& s.conditions p ≠ 0)

/-- The level of a port's READY line (R177). -/
def State.ready (s : State) (p : Port) : Bool :=
  !s.nrstLow &&
    match (s.port p).command with
    | .done _ => true
    | .idle => false
    | .busy _ => false

/-- Command state code in the state byte (R197). -/
def CommandState.code : CommandState → Nat
  | .idle => 0
  | .busy _ => 1
  | .done _ => 2

/-- The state byte a port clocks out first: command state in bits 0 and 1, ATTN level in bit 7 (R172, R197). -/
def State.stateByte (s : State) (p : Port) : Byte :=
  BitVec.ofNat 8 ((s.port p).command.code + 128 * boolCode (s.attn p))

end Sys2Proof.Machine
end

