-- ==== Sys2Proof/Machine/Ports.lean ====
section
/-! DEFINITION. Chapter 10's transactions: chip-select, the taking of a transaction, the frame checks, the port command
states and the responses. -/

namespace Sys2Proof.Machine

/-- The outcome of a command's own rule: it completes at once with a status and data, formed from the state it leaves,
or it is an accepted timed command that waits for the next boundary (R174, R178, R179). -/
inductive Answer where
  | complete (s : State) (status : Status) (data : List Byte)
  | wait (t : Timed)

/-- A refusal: nothing changes and the response carries no data (R178). -/
def refuse (s : State) (status : Status) : Answer := .complete s status []

/-- A transaction of this port that would be taken now is ignored: NRST is low, or it fell during the transaction
(R172, R183). -/
def State.ignores (s : State) (p : Port) : Bool :=
  s.nrstLow || (match (s.port p).transaction with | some t => t.spoiled | none => false)

/-- The state byte of the transaction that ends now: the one fixed at the fall of chip-select (R172); a transaction
whose fall was not given is taken to have fallen just before (log entry 6). -/
def State.firstByte (s : State) (p : Port) : Byte :=
  match (s.port p).transaction with
  | some t => t.stateByte
  | none => s.stateByte p

/-- Chip-select rises on a transaction that is ignored: no state but the transaction itself ends (R172). -/
def State.dropTransaction (s : State) (p : Port) : State := s.mapPort p fun q => { q with transaction := none }

/-- Chip-select rises on a transaction that is taken, which clocked out `out` (R172, R176; log entry
13). -/
def State.endTransaction (s : State) (p : Port) (out : List Byte) : State :=
  s.mapPort p fun q => { q with transaction := none, clockedOut := out }

/-- In DONE the unread response is discarded (R174). -/
def State.discardResponse (s : State) (p : Port) : State := s.mapPort p fun q => { q with command := .idle }

/-- The port takes up an answer: DONE with the response, or BUSY with the timed command (R174). -/
def State.takeAnswer (s : State) (p : Port) : Answer → State
  | .complete s' status data => s'.mapPort p fun q => { q with command := .done ⟨status, false, data⟩ }
  | .wait t => s.mapPort p fun q => { q with command := .busy t }

/-- The taking of a command transaction whose checks and rule give `answer` on the state it finds: ignored under or
after an NRST low (R172), discarded with COLLIDED set in BUSY (R175), and otherwise answered after the unread response
is discarded (R174). The bytes after the state byte are filler (R172). -/
def takeCommand (p : Port) (answer : State → Answer) (s : State) : State :=
  if s.ignores p then s.dropTransaction p
  else
    let ended := s.endTransaction p [s.firstByte p]
    match (s.port p).command with
    | .busy _ => ended.mapPort p fun q => { q with collided := true }
    | .idle => (ended.discardResponse p).takeAnswer p (answer (ended.discardResponse p))
    | .done _ => (ended.discardResponse p).takeAnswer p (answer (ended.discardResponse p))

/-- The answer of a known command: the frame checks 2 to 4 (R173), then the command's own rule on its arguments. -/
def checkedAnswer (k : CommandInfo) (p : Port) (rest : List Byte) (rule : List Byte → State → Answer) (s : State) :
    Answer :=
  match checkFrame k p rest with
  | .refuse status => refuse s status
  | .ok args => rule args s

/-- The taking of a command transaction with a known command code. -/
def portCommand (k : CommandInfo) (p : Port) (rest : List Byte) (rule : List Byte → State → Answer) (s : State) :
    Host.Outcome State Fault Refusal :=
  .next (takeCommand p (checkedAnswer k p rest rule) s)

/-- The bytes of a response: status, flags byte with COLLIDED in bit 0, data length, data (R197). Bits 1 to 7 of the
flags byte, which R197 does not name, are 0 (DESIGN CHOICE: log entry 26). -/
def Response.bytes (r : Response) : List Byte :=
  put1 r.status.code ++ put1 (boolCode r.collided) ++ put1 r.data.length ++ r.data

/-- The response NOTHING: COLLIDED clear, no data (R176). -/
def nothingResponse : Response := ⟨.nothing, false, []⟩

/-- The response that a read-response transaction returns (R176). -/
def heldResponse : CommandState → Response
  | .done r => r
  | .idle => nothingResponse
  | .busy _ => nothingResponse

/-- The command state after a read-response transaction: the response of DONE is consumed (R176). -/
def afterRead : CommandState → CommandState
  | .done _ => .idle
  | .idle => .idle
  | .busy t => .busy t

/-- The taking of a read-response transaction of `1 + rest.length` bytes: the response follows the state byte, as much
of it as that many bytes hold (R176, R197). -/
def readResponse (p : Port) (rest : List Byte) (s : State) : State :=
  if s.ignores p then s.dropTransaction p
  else
    let out := (s.firstByte p :: (heldResponse (s.port p).command).bytes).take (1 + rest.length)
    (s.endTransaction p out).mapPort p fun q => { q with command := afterRead q.command }

/-- Chip-select falls: the transaction begins with its state byte (R172). A fall within a transaction cannot come
about. -/
def chipSelectFall (p : Port) (s : State) : State :=
  s.mapPort p fun q =>
    match q.transaction with
    | some _ => q
    | none => { q with transaction := some ⟨s.stateByte p, false⟩ }

/-- A reset falls on a transaction in progress (R183). -/
def Transaction.spoil (t : Transaction) : Transaction := { t with spoiled := true }

end Sys2Proof.Machine
end

