-- ==== Sys2Proof/Machine/Timebase.lean ====
section
/-! DEFINITION. Chapter 1 at a boundary: the advance of site time, the day rollover and day wrap, time steps, the choice
of day profile and slot class, and the tag of the slice that starts. -/

namespace Sys2Proof.Machine

/-- The slot of a time: slice-of-day div 7200 (R2). -/
def slotOf (t : Time) : Fin 96 := ⟨t.sod.val / Config.slicesPerSlot, by
  have := t.sod.isLt
  simp only [Config.slicesPerSlot]
  omega⟩

/-- The weekday of a day (R2). -/
def Timebase.weekday (tb : Timebase) (day : BitVec 16) : Nat := (day.toNat + tb.weekdayOffset.val) % 7

/-- The slot codes of a day profile (R9). -/
def Timebase.slots (tb : Timebase) : Profile → Vector ClassNo 96
  | .working => tb.workingSlots
  | .rest => tb.restSlots

/-- The day profile chosen for a day (R8). -/
def Timebase.chosenProfile (tb : Timebase) (day : BitVec 16) : Profile :=
  if tb.restDays.contains day || tb.restWeekdays.getLsbD (tb.weekday day) then .rest else .working

/-- The rest-day list without the days earlier than `day`, as plain numbers (R3, R12). -/
def pruneRestDays (day : BitVec 16) (l : List (BitVec 16)) : List (BitVec 16) := l.filter fun d => decide (day ≤ d)

/-- Read the class code of the slot of the held time from the profile in force (R6). -/
def Timebase.readSlotClass (tb : Timebase) : Timebase :=
  { tb with slotClass := (tb.slots tb.profile).get (slotOf tb.time) }

/-- The read of R6 at a boundary: it takes place where the slice that starts is the first of its slot. -/
def Timebase.slotStart (tb : Timebase) : Timebase :=
  if tb.time.sod.val % Config.slicesPerSlot = 0 then tb.readSlotClass else tb

/-- The day rollover (R3), with the day wrap of R4 after day 65535: the list is pruned or emptied, then the day profile
of the new day is chosen (R8). -/
def Timebase.rollover (tb : Timebase) : Timebase :=
  let day := tb.time.day + 1
  let cleared : Timebase :=
    if tb.time.day = 65535#16 then { tb with restDays := [], weekdayOffset := tb.weekdayOffset + 2 }
    else { tb with restDays := pruneRestDays day tb.restDays }
  { cleared with time := ⟨day, 0⟩, profile := cleared.chosenProfile day }

/-- The advance of site time by one slice (R3). -/
def Timebase.advance (tb : Timebase) : Timebase :=
  if h : tb.time.sod.val + 1 < 691200 then { tb with time := ⟨tb.time.day, ⟨tb.time.sod.val + 1, h⟩⟩ }
  else tb.rollover

/-- WEEKDAY_OFFSET after a time step: (weekday − day) mod 7 (R19). -/
def offsetFor (weekday : Fin 7) (day : BitVec 16) : Fin 7 :=
  ⟨(weekday.val + 7 - day.toNat % 7) % 7, Nat.mod_lt _ (by decide)⟩

/-- A time step (R19): new time, TIME_VALID, new offset, pruning, profile choice, and the slot class read at once. -/
def Timebase.timeStep (tb : Timebase) (time : Time) (weekday : Fin 7) : Timebase :=
  let stepped : Timebase :=
    { tb with
      time := time
      timeValid := true
      weekdayOffset := offsetFor weekday time.day
      restDays := pruneRestDays time.day tb.restDays }
  Timebase.readSlotClass { stepped with profile := stepped.chosenProfile time.day }

/-- The class of a new tag (R7). -/
def Timebase.tagClass (tb : Timebase) : ClassNo :=
  if tb.timeValid && tb.calendarEnable then tb.slotClass else tb.defaultClass

/-- The tag of the slice that starts (R5, R7). -/
def Timebase.newTag (tb : Timebase) : Tag :=
  ⟨tb.time, tb.profile, tb.tagClass, (tb.classes.get tb.tagClass).plant, tb.timeValid⟩

/-- The new slice's tag is created, the slice that was in progress becomes the last ended one (R5, R20). -/
def Timebase.beginSlice (tb : Timebase) (voided : Bool) : Timebase :=
  { tb with lastSlice := tb.slice.map fun t => ⟨t, voided⟩, slice := some tb.newTag }

/-- The site time of the slice that starts at a boundary: a time step replaces the advance (R3, R19); the first
boundary after a reset starts the slice that the timebase already holds, slice 0 of day 0 (R1), under the profile of
the reset (log entry 12). -/
def Timebase.toNextSlice (tb : Timebase) (timed : Option Timed) : Timebase :=
  match timed with
  | some (.setTime time weekday) => tb.timeStep time weekday
  | _ => (if tb.slice.isSome then tb.advance else tb).slotStart

/-- The timebase's whole work at a boundary. -/
def Timebase.atBoundary (tb : Timebase) (timed : Option Timed) : Timebase :=
  (tb.toNextSlice timed).beginSlice (isTimeStep timed)

/-- The boundary ahead is a day rollover: a slice is in progress, it is slice 691 199, and no time step replaces the
advance (R3). -/
def Timebase.rollsOver (tb : Timebase) (timed : Option Timed) : Bool :=
  tb.slice.isSome && tb.time.sod.val == 691199 && !isTimeStep timed

/-- The boundary ahead is the day wrap (R4). -/
def Timebase.wraps (tb : Timebase) (timed : Option Timed) : Bool :=
  tb.rollsOver timed && tb.time.day == 65535#16

end Sys2Proof.Machine
end

