-- ==== Sys2Proof/Machine/CalendarCommands.lean ====
section
/-! DEFINITION. The commands of chapter 1: SET_TIME, SET_CALENDAR_SLOTS, SET_CLASS, SET_DAY_RULES, ADD_REST_DAY,
DROP_REST_DAY. -/

namespace Sys2Proof.Machine

/-- The rule of SET_TIME (R19): day, slice-of-day, weekday. -/
def setTimeRule (args : List Byte) (s : State) : Answer :=
  match finOf 691200 (arg3 args 2), finOf 7 (arg1 args 5) with
  | some sod, some weekday => .wait (.setTime ⟨BitVec.ofNat 16 (arg2 args 0), sod⟩ weekday)
  | _, _ => refuse s .range

/-- SET_TIME. -/
def execSetTime (p : Port) (rest : List Byte) (s : State) : Host.Outcome State Fault Refusal :=
  portCommand (authorityCommand 6) p rest setTimeRule s

/-- Class codes, one to a byte; none where one of them is 12 to 15 (R10, R198). -/
def classCodes : List Byte → Option (List ClassNo)
  | [] => some []
  | b :: bs =>
    match classCode b, classCodes bs with
    | some c, some cs => some (c :: cs)
    | _, _ => none

/-- Codes written into consecutive slots (R10). -/
def writeSlots (v : Vector ClassNo 96) (first : Nat) : List ClassNo → Vector ClassNo 96
  | [] => v
  | c :: cs => writeSlots (if h : first < 96 then v.set first c h else v) (first + 1) cs

/-- The timebase with the slot codes of one profile replaced. -/
def Timebase.withSlots (tb : Timebase) (profile : Profile) (v : Vector ClassNo 96) : Timebase :=
  match profile with
  | .working => { tb with workingSlots := v }
  | .rest => { tb with restSlots := v }

/-- The stored codes of a profile, one byte each in slot order (R190, R196). -/
def slotBytes (v : Vector ClassNo 96) : List Byte := v.toList.map fun c => BitVec.ofNat 8 c.val

/-- An accepted SET_CALENDAR_SLOTS (R10, R168). -/
def storeSlots (p : Port) (profile : Profile) (first count : Nat) (codes : List ClassNo) (s : State) : Answer :=
  let v := writeSlots (s.timebase.slots profile) first codes
  let stored := { s with timebase := s.timebase.withSlots profile v }
  .complete (stored.offerConfig p (.calendar profile first count (codes.take 60) (crc (slotBytes v)))) .ok
    (put1 profile.code ++ put1 first ++ put1 count)

/-- The rule of SET_CALENDAR_SLOTS (R10): FORMAT where the length does not match the count, then RANGE (log entry
16). -/
def setCalendarSlotsRule (p : Port) (args : List Byte) (s : State) : Answer :=
  let first := arg1 args 1
  let count := arg1 args 2
  if args.length ≠ 3 + count then refuse s .format
  else
    match profileOf (arg1 args 0), classCodes (args.drop 3) with
    | some profile, some codes =>
      if 95 < first ∨ count = 0 ∨ 96 < count ∨ 96 < first + count then refuse s .range
      else storeSlots p profile first count codes s
    | _, _ => refuse s .range

/-- SET_CALENDAR_SLOTS. -/
def execSetCalendarSlots (p : Port) (rest : List Byte) (s : State) : Host.Outcome State Fault Refusal :=
  portCommand calendarSlotsCommand p rest (setCalendarSlotsRule p) s

/-- The parameters of a class with the numeric ones clamped into their stored ranges (R17). -/
def storedClass (limit : Nat) (length : IntervalLength) (lmax peak : Nat) (plant : Bool) : ClassParams :=
  ⟨clamp 200 1400 limit, length, clamp 200 1400 lmax, clamp 400 1500 peak, plant⟩

/-- The rule of SET_CLASS (R17). -/
def setClassRule (p : Port) (args : List Byte) (s : State) : Answer :=
  match finOf 12 (arg1 args 0), lengthOf (arg1 args 3), boolOf (arg1 args 8) with
  | some n, some length, some plant =>
    let stored := storedClass (arg2 args 1) length (arg2 args 4) (arg2 args 6) plant
    let s' := { s with timebase := { s.timebase with classes := s.timebase.classes.set n.val stored n.isLt } }
    .complete (s'.offerConfig p (.cls n stored)) .ok (putClass stored)
  | _, _, _ => refuse s .range

/-- SET_CLASS. -/
def execSetClass (p : Port) (rest : List Byte) (s : State) : Host.Outcome State Fault Refusal :=
  portCommand (authorityCommand 9) p rest (setClassRule p) s

/-- The rule of SET_DAY_RULES (R11): a mask byte with bit 7 set names a weekday above 6 (R198). -/
def setDayRulesRule (p : Port) (args : List Byte) (s : State) : Answer :=
  match classCode (argByte args 1), boolOf (arg1 args 2) with
  | some fallback, some enable =>
    if 128 ≤ arg1 args 0 then refuse s .range
    else
      let mask := BitVec.ofNat 7 (arg1 args 0)
      let s' :=
        { s with timebase :=
          { s.timebase with restWeekdays := mask, defaultClass := fallback, calendarEnable := enable } }
      .complete (s'.offerConfig p (.dayRules mask fallback enable)) .ok
        (put1 mask.toNat ++ put1 fallback.val ++ put1 (boolCode enable))
  | _, _ => refuse s .range

/-- SET_DAY_RULES. -/
def execSetDayRules (p : Port) (rest : List Byte) (s : State) : Host.Outcome State Fault Refusal :=
  portCommand (authorityCommand 3) p rest (setDayRulesRule p) s

/-- A day put at its place in increasing order (R12, R13). -/
def insertDay (day : BitVec 16) : List (BitVec 16) → List (BitVec 16)
  | [] => [day]
  | d :: ds => if day ≤ d then day :: d :: ds else d :: insertDay day ds

/-- The rule of ADD_REST_DAY (R13): the first check that fails gives the answer. -/
def addRestDayRule (p : Port) (args : List Byte) (s : State) : Answer :=
  let day := BitVec.ofNat 16 (arg2 args 0)
  if s.timebase.timeValid = false then refuse s .range
  else if day < s.timebase.time.day then refuse s .range
  else if s.timebase.restDays.contains day then refuse s .duplicate
  else if Config.restDayPlaces ≤ s.timebase.restDays.length then refuse s .full
  else
    let list := insertDay day s.timebase.restDays
    let s' := { s with timebase := { s.timebase with restDays := list } }
    .complete (s'.offerConfig p (.restDayAdd day list)) .ok (putRestDays list)

/-- ADD_REST_DAY. -/
def execAddRestDay (p : Port) (rest : List Byte) (s : State) : Host.Outcome State Fault Refusal :=
  portCommand (authorityCommand 2) p rest (addRestDayRule p) s

/-- The rule of DROP_REST_DAY (R14). -/
def dropRestDayRule (p : Port) (args : List Byte) (s : State) : Answer :=
  let day := BitVec.ofNat 16 (arg2 args 0)
  if s.timebase.restDays.contains day = false then refuse s .absent
  else
    let list := s.timebase.restDays.filter fun d => d != day
    let s' := { s with timebase := { s.timebase with restDays := list } }
    .complete (s'.offerConfig p (.restDayDrop day list)) .ok (putRestDays list)

/-- DROP_REST_DAY. -/
def execDropRestDay (p : Port) (rest : List Byte) (s : State) : Host.Outcome State Fault Refusal :=
  portCommand (authorityCommand 2) p rest (dropRestDayRule p) s

end Sys2Proof.Machine
end

