-- ==== Sys2Proof/Machine/InterlockCommands.lean ====
section
/-! DEFINITION. The commands of chapter 8: SET_WARN_FRACTION, SET_ROUTE, LOCK_ROUTING. -/

namespace Sys2Proof.Machine

/-- The allowance state of an open interval recomputed with a new fraction; RS and exhausted-at stay (R136). -/
def Interval.rewarn (iv : Interval) (warnFraction : Nat) : Interval :=
  { iv with allowance := allowanceState iv.planned iv.limit iv.sumTot iv.sumBg warnFraction }

/-- The channel with its open interval's allowance state recomputed (R136). -/
def ChannelState.rewarn (ch : ChannelState) (warnFraction : Nat) : ChannelState :=
  { ch with interval := ch.interval.map (Interval.rewarn · warnFraction) }

/-- The rule of SET_WARN_FRACTION (R136). -/
def setWarnFractionRule (p : Port) (args : List Byte) (s : State) : Answer :=
  let v := arg1 args 0
  let s' :=
    { s with
      settings := { s.settings with warnFraction := v }
      channels := s.channels.map (ChannelState.rewarn · v) }
  .complete (s'.offerConfig p (.warnFraction v s.settings.warnFraction)) .ok (put1 v)

/-- SET_WARN_FRACTION. -/
def execSetWarnFraction (p : Port) (rest : List Byte) (s : State) : Host.Outcome State Fault Refusal :=
  portCommand (siteCommand 1) p rest (setWarnFractionRule p) s

/-- The rule of SET_ROUTE (R144, R145): LOCKED for the site port under the lock, then RANGE. -/
def setRouteRule (p : Port) (args : List Byte) (s : State) : Answer :=
  if p = .site ∧ s.matrix.locked = true then refuse s .locked
  else
    match finOf 8 (arg1 args 0), sourceOf (arg1 args 1), polarityOf (arg1 args 2) with
    | some line, some source, some polarity =>
      let route : Route := ⟨source, polarity⟩
      let s' := { s with matrix := { s.matrix with routes := s.matrix.routes.set line route } }
      .complete (s'.offerConfig p (.route line route (s.matrix.routes.get line) s.matrix.locked)) .ok
        (put1 line.val ++ putRoute route)
    | _, _, _ => refuse s .range

/-- SET_ROUTE. -/
def execSetRoute (p : Port) (rest : List Byte) (s : State) : Host.Outcome State Fault Refusal :=
  portCommand (bothCommand 3) p rest (setRouteRule p) s

/-- The rule of LOCK_ROUTING (R146). -/
def lockRoutingRule (p : Port) (_ : List Byte) (s : State) : Answer :=
  let s' := { s with matrix := { s.matrix with locked := true } }
  .complete (s'.offerConfig p (.routingLock s.matrix.locked)) .ok (put1 1)

/-- LOCK_ROUTING. -/
def execLockRouting (p : Port) (rest : List Byte) (s : State) : Host.Outcome State Fault Refusal :=
  portCommand (authorityCommand 0) p rest (lockRoutingRule p) s

end Sys2Proof.Machine
end

