-- ==== Sys2Proof/Machine/Layout.lean ====
section
/-! DEFINITION. The byte layouts of records (R199) and of captures (R185, R198). -/

namespace Sys2Proof.Machine

/-- Bytes filled up with 00h to a width (R194: unused bytes are stored as 00h). -/
def padTo (width : Nat) (bytes : List Byte) : List Byte := (bytes ++ List.replicate width 0#8).take width

/-- Two 4-bit codes in a byte, the first in the high four bits; a missing one is Fh (R199, CALENDAR). -/
def putCodes : Nat → List ClassNo → List Byte
  | 0, _ => []
  | n + 1, a :: b :: cs => BitVec.ofNat 8 (a.val * 16 + b.val) :: putCodes n cs
  | n + 1, [a] => BitVec.ofNat 8 (a.val * 16 + 15) :: putCodes n []
  | n + 1, [] => 0xFF#8 :: putCodes n []

/-- The flags word of an INTERVAL record (R199). Bits 9 to 15, which R199 does not name, are 0 (DESIGN CHOICE: log
entry 26). -/
def IntervalRecord.flags (r : IntervalRecord) : Nat :=
  boolCode r.short + 2 * boolCode r.overload + 4 * boolCode r.lmaxExceeded + 8 * boolCode r.peakExceeded +
    16 * boolCode r.timeUnset + 32 * boolCode r.eventsSuppressed + 64 * boolCode r.invalid +
    128 * boolCode r.noBackground + 256 * boolCode r.dominated

/-- INTERVAL body (R199). -/
def putInterval (r : IntervalRecord) : List Byte :=
  put1 (r.cls.val * 16 + r.cause.code) ++ put1 r.verdict.code ++ put2 r.flags ++ put2 r.limit ++ put2 r.planned ++
    put2 r.elapsed ++ put2 r.measured ++ put2 r.concealed ++ put2 r.missing ++ put2 r.cal ++ put2 r.nbg ++
    put2? r.ltot ++ put2? r.lbg ++ put2? r.lsite ++ put2? r.lmax ++ put2? r.peakMax ++ put2 r.eventCount ++
    put2 r.activitySlices ++ put2? r.exhaustedAt

/-- GAP body (R199). -/
def putGap (r : GapRecord) : List Byte :=
  putTime r.start ++ putTime r.last ++ put4 r.length ++ put1 r.cause.code ++
    put1? (r.refusal.map ConcealRefusal.code) ++ put1 (boolCode r.afterLevel) ++ putTime r.homeOpenTime

/-- EVENT body (R199). -/
def putEvent (r : EventRecord) : List Byte :=
  putTime r.start ++ putTime r.lastTrigger ++ put2 r.duration ++ put1 r.homeClass.val ++ putTime r.homeOpenTime ++
    put2 r.lmaxThreshold ++ put2 r.peakThreshold ++ put2 r.lmax ++ put2 r.peakMax ++ put2 r.exposure ++
    put1 r.cause.code

/-- PROHIBITED body (R199). -/
def putProhibited (r : ProhibitedRecord) : List Byte :=
  putTime r.start ++ putTime r.last ++ put4 r.span ++ put4 r.count ++ [r.lines] ++ put1 r.cls.val ++ put1 r.cause.code

/-- LOSS body (R199). -/
def putLoss (b : LossBody) : List Byte :=
  put2 b.total ++ put2 b.intervals ++ put2 b.events ++ put2 b.gaps ++ put2 b.prohibiteds ++ put2 b.configs ++
    putTime b.first ++ putTime b.last

/-- Code of a CONFIG change kind (R199, "List of CONFIG Summaries"). -/
def ConfigChange.code : ConfigChange → Nat
  | .time _ _ _ _ => 1
  | .calendar _ _ _ _ _ => 2
  | .cls _ _ => 3
  | .dayRules _ _ _ => 4
  | .restDayAdd _ _ => 5
  | .restDayDrop _ _ => 6
  | .channelOn _ => 7
  | .channelOff _ => 8
  | .cut _ _ => 9
  | .restart _ => 10
  | .countersClear _ _ _ _ => 11
  | .activityLines _ _ => 12
  | .background _ _ _ => 13
  | .eventSettings _ _ => 14
  | .gapSettings _ _ => 15
  | .warnFraction _ _ => 16
  | .route _ _ _ _ => 17
  | .routingLock _ => 18

/-- CONFIG summary bytes (R199, "List of CONFIG Summaries"). -/
def ConfigChange.summary : ConfigChange → List Byte
  | .time new weekday old valid => putTime new ++ put1 weekday.val ++ putTime? old ++ put1 (boolCode valid)
  | .calendar profile first count codes check =>
    put1 (profile.code * 128 + first) ++ put1 count ++ putCodes 30 codes ++ put2 check.toNat
  | .cls n params => put1 n.val ++ putClass params
  | .dayRules weekdays fallback enable => put1 weekdays.toNat ++ put1 fallback.val ++ put1 (boolCode enable)
  | .restDayAdd day list => put2 day.toNat ++ putRestDays list
  | .restDayDrop day list => put2 day.toNat ++ putRestDays list
  | .channelOn link => put1 link.code
  | .channelOff link => put1 link.code
  | .cut mask closed => [mask, closed]
  | .restart next => put4 next.toNat
  | .countersClear crcCount stray late dup => put2 crcCount ++ put2 stray ++ put2 late ++ put2 dup
  | .activityLines stored before => [stored, before]
  | .background shift min hold => put1 shift ++ put2 min ++ put2 hold
  | .eventSettings hold cap => put1 hold ++ put1 cap
  | .gapSettings concealMax lossCount => put1 concealMax ++ put1 lossCount
  | .warnFraction stored before => put1 stored ++ put1 before
  | .route line stored before locked =>
    put1 line.val ++ putRoute stored ++ putRoute before ++ put1 (boolCode locked)
  | .routingLock before => put1 (boolCode before)

/-- Record kind code (R194). -/
def RecordBody.kind : RecordBody → Nat
  | .interval _ => 1
  | .event _ => 2
  | .gap _ => 3
  | .prohibited _ => 4
  | .config _ _ => 5
  | .loss _ => 6

/-- The bytes of a body, before they are filled up to 36 (R199). -/
def RecordBody.bytes : RecordBody → List Byte
  | .interval r => putInterval r
  | .gap r => putGap r
  | .event r => putEvent r
  | .prohibited r => putProhibited r
  | .config port change => put1 (change.code + 128 * portCode port) ++ change.summary
  | .loss b => putLoss b

/-- The 48 bytes of a record with its final mark (R150, R199). -/
def Record.bytes (r : Record) (final : Bool) : List Byte :=
  put4 r.seq.toNat ++ put1 r.offer.body.kind ++ put1? (r.offer.channel.map Fin.val) ++ putTime r.offer.time ++
    put1 (boolCode final) ++ padTo 36 r.offer.body.bytes

/-- The data of a capture, row by row of the List of Snapshot Fields (R185, R198). -/
def Capture.bytes (k : Capture) : List Byte :=
  putTime k.latchTime ++ put1 k.link.code ++ put1? (k.cls.map Fin.val) ++ putTime? k.openTime ++ put2? k.planned ++
    put2? k.elapsed ++ put2? k.nacc ++ put2? k.runningLevel ++ put2? k.lmax ++ put2? k.backgroundLevel ++ put2 k.nq ++
    put1 k.allowance.code ++ put2? k.rs ++ put1 (boolCode k.eventOpen) ++ put2? k.eventDuration ++
    put1? (k.lastResult.map KeptResult.code) ++ put2? (k.lastResult.bind KeptResult.level?)

end Sys2Proof.Machine
end

