-- ==== Sys2Proof/Machine/LogCommands.lean ====
section
/-! DEFINITION. The commands of chapter 9: FETCH, RELEASE, PEEK, ADVANCE. -/

namespace Sys2Proof.Machine

/-- The rule of FETCH (R159): the oldest record with its final mark, and the number held (log entry 15). -/
def fetchRule (_ : List Byte) (s : State) : Answer :=
  match s.log.oldest with
  | none => refuse s .empty
  | some (r, final) => .complete s .ok (r.bytes final ++ put2 s.log.held)

/-- FETCH. -/
def execFetch (p : Port) (rest : List Byte) (s : State) : Host.Outcome State Fault Refusal :=
  portCommand (authorityCommand 0) p rest fetchRule s

/-- The rule of RELEASE (R160). -/
def releaseRule (args : List Byte) (s : State) : Answer :=
  match s.log.oldest with
  | none => refuse s .empty
  | some (r, _) =>
    if arg4 args 0 ≠ r.seq.toNat then refuse s .absent
    else
      let log := s.log.dropOldest
      .complete { s with log := log } .ok (put4 r.seq.toNat ++ put2 log.held)

/-- RELEASE. -/
def execRelease (p : Port) (rest : List Byte) (s : State) : Host.Outcome State Fault Refusal :=
  portCommand (authorityCommand 4) p rest releaseRule s

/-- The bytes that PEEK returns where the record numbered C is not held: the spec states none (log entry 25). -/
def Log.unheldRecord (log : Log) : List Byte :=
  (List.range 48).map (Config.unheldRecordByte log.cursor log.next log.lag)

/-- The rule of PEEK (R163): the cursor is brought up first, and the skipped count goes with EMPTY too (log entry
15). -/
def peekRule (_ : List Byte) (s : State) : Answer :=
  let skipped := put4 s.log.skipped
  let s' := { s with log := s.log.catchUp }
  if s'.log.lag = 0 then .complete s' .empty skipped
  else
    match s'.log.atCursor with
    | none => .complete s' .ok (s'.log.unheldRecord ++ skipped)
    | some (r, final) => .complete s' .ok (r.bytes final ++ skipped)

/-- PEEK. -/
def execPeek (p : Port) (rest : List Byte) (s : State) : Host.Outcome State Fault Refusal :=
  portCommand (siteCommand 0) p rest peekRule s

/-- The rule of ADVANCE (R164). -/
def advanceRule (_ : List Byte) (s : State) : Answer :=
  if s.log.lag = 0 then refuse s .empty
  else
    let log := s.log.advanceCursor
    .complete { s with log := log } .ok (put4 log.cursor.toNat ++ put4 log.lag)

/-- ADVANCE. -/
def execAdvance (p : Port) (rest : List Byte) (s : State) : Host.Outcome State Fault Refusal :=
  portCommand (siteCommand 0) p rest advanceRule s

end Sys2Proof.Machine
end

