-- ==== Sys2Proof/Machine/HeadLink.lean ====
section
/-! DEFINITION. Chapter 2: acceptance of frames, findings, link states, and the SYNC. -/

namespace Sys2Proof.Machine

/-! ### Frames (R22, R25 to R29, R195, R196) -/

/-- The CRC check: at least 3 bytes, and the CRC of all but the last two equals those two, high byte first (R25,
R196). -/
def crcPasses (frame : List Byte) : Bool :=
  let n := frame.length - 2
  decide (3 ≤ frame.length) && (frame.drop n == put2 (crc (frame.take n)).toNat)

/-- The channel a frame belongs to, or none where the frame is stray (R26, R196). -/
def frameChannel (frame : List Byte) : Option Channel :=
  if argByte frame 0 = 0x52#8 ∧ frame.length = 10 ∧ 1 ≤ arg1 frame 1 then finOf 8 (arg1 frame 1 - 1) else none

/-- The report of a REPORT frame (R195). -/
def frameReport (frame : List Byte) : Report :=
  ⟨BitVec.ofNat 16 (arg2 frame 3), BitVec.ofNat 16 (arg2 frame 5), argByte frame 7⟩

/-- One channel of the state changed. -/
def State.mapChannel (s : State) (c : Channel) (f : ChannelState → ChannelState) : State :=
  { s with channels := s.channels.set c (f (s.channels.get c)) }

/-- A REPORT for its channel: discarded when the channel is OFF (R27), LATE when the tag is not that of the last SYNC
(R28), DUP when a report is already held, and held otherwise (R29). -/
def acceptReport (syncTag : Option Byte) (tag : Byte) (report : Report) (ch : ChannelState) : ChannelState :=
  if ch.link = .off then ch
  else if syncTag ≠ some tag then { ch with late := satInc16 ch.late }
  else if ch.held.isSome then { ch with dup := satInc16 ch.dup }
  else { ch with held := some report }

/-- A received frame runs through the acceptance checks, in the order of the List of Acceptance Checks. No characters
at all are no frame (log entry 18). -/
def acceptFrame (frame : List Byte) (s : State) : State :=
  if frame = [] then s
  else if crcPasses frame = false then { s with headLink := { s.headLink with crc := satInc16 s.headLink.crc } }
  else
    match frameChannel frame with
    | none => { s with headLink := { s.headLink with stray := satInc16 s.headLink.stray } }
    | some c => s.mapChannel c (acceptReport s.headLink.syncTag (argByte frame 2) (frameReport frame))

/-- The frame in reception with the characters heard since, ended here: it is checked, and none is in reception. -/
def endFrame (heard : List Byte) (s : State) : State :=
  acceptFrame (s.headLink.inFrame ++ heard) { s with headLink := { s.headLink with inFrame := [] } }

/-- What a boundary does with a frame in reception (R22): where a SYNC is due, that is where a slice ends, the frame is
ended and checked before all other work; at the first boundary after a reset the reception goes on. While the driver
is enabled nothing is received (log entry 18). -/
def frameAtBoundary (heard : List Byte) (s : State) : State :=
  if s.headLink.driverOn then s
  else if s.timebase.slice.isSome then endFrame heard s
  else { s with headLink := { s.headLink with inFrame := s.headLink.inFrame ++ heard } }

/-- The SYNC frame of a tag (R195). -/
def syncFrame (tag : Byte) : List Byte := [0x51#8, tag] ++ put2 (crc [0x51#8, tag]).toNat

/-- What the controller drives on HB_TX: the SYNC of the last tag, while the driver is enabled (R22). -/
def hbTx (s : State) : Option (List Byte) := if s.headLink.driverOn then s.headLink.syncTag.map syncFrame else none

/-! ### Deadline (R32 to R36) -/

/-- The finding of a held report (R32): the first case of its table that applies. -/
def interpret (held : Option Report) : SliceResult :=
  match held with
  | none => .missing
  | some r =>
    let level := r.level.toNat
    let peak := clamp 400 1500 r.peak.toNat
    if r.flags.getLsbD 3 then .missing
    else if r.flags.getLsbD 2 then .cal
    else if r.flags.getLsbD 0 then .level 1400 peak true
    else if 1400 < level then .level 1400 peak true
    else if r.flags.getLsbD 1 then .level 200 peak false
    else if level < 200 then .level 200 peak false
    else .level level peak false

/-- A finding of LEVEL or CAL: a valid report was held (R32, R34). -/
def SliceResult.valid : SliceResult → Bool
  | .missing => false
  | .cal => true
  | .level _ _ _ => true

/-- Link state, acquire count and miss count of a channel. -/
structure Link where
  state : LinkState
  acquire : Nat
  miss : Nat
  deriving DecidableEq, Repr

/-- A deadline in SEARCH (R34). -/
def searchDeadline (l : Link) (finding : SliceResult) : Link × SliceResult :=
  if finding.valid then
    if l.acquire + 1 = 3 then (⟨.live, 0, 0⟩, finding) else (⟨.search, l.acquire + 1, l.miss⟩, .missing)
  else (⟨.search, 0, l.miss⟩, .missing)

/-- A deadline in LIVE (R35). -/
def liveDeadline (lossCount : Nat) (l : Link) (finding : SliceResult) : Link × SliceResult :=
  if finding.valid then (⟨.live, l.acquire, 0⟩, finding)
  else if lossCount ≤ l.miss + 1 then (⟨.lost, l.acquire, 0⟩, .missing)
  else (⟨.live, l.acquire, l.miss + 1⟩, .missing)

/-- A deadline in LOST (R36). -/
def lostDeadline (l : Link) (finding : SliceResult) : Link × SliceResult :=
  if finding.valid then (⟨.search, 1, l.miss⟩, .missing) else (⟨.lost, l.acquire, l.miss⟩, .missing)

/-- The link state after a deadline and the slice result it gives; an OFF channel gives none (R34 to R37). -/
def linkDeadline (lossCount : Nat) (l : Link) (finding : SliceResult) : Link × Option SliceResult :=
  match l.state with
  | .off => (l, none)
  | .search => ((searchDeadline l finding).1, some (searchDeadline l finding).2)
  | .live => ((liveDeadline lossCount l finding).1, some (liveDeadline lossCount l finding).2)
  | .lost => ((lostDeadline l finding).1, some (lostDeadline l finding).2)

/-- The link of a channel. -/
def ChannelState.linkOf (ch : ChannelState) : Link := ⟨ch.link, ch.acquire, ch.miss⟩

/-- The channel with its link changed. -/
def ChannelState.withLink (ch : ChannelState) (l : Link) : ChannelState :=
  { ch with link := l.state, acquire := l.acquire, miss := l.miss }

/-- The kind and level of a result, as kept for reads (R37). -/
def SliceResult.kept : SliceResult → KeptResult
  | .missing => .missing
  | .cal => .cal
  | .level l _ _ => .level l

/-- The kind and energy of a result, as kept for gap runs (R81). -/
def SliceResult.prev : SliceResult → PrevResult
  | .missing => .missing
  | .cal => .cal
  | .level l _ _ => .level (energy l)

/-- The head link's deadline work for one channel: the held report is interpreted and dropped and the link moves
(R32 to R36). -/
def deadlineLink (lossCount : Nat) (ch : ChannelState) : ChannelState × Option SliceResult :=
  let r := linkDeadline lossCount ch.linkOf (interpret ch.held)
  match r.2 with
  | none => (ch, none)
  | some result => ({ ch.withLink r.1 with held := none }, some result)

/-- The SYNC at a boundary (R23): sent where a slice ends, tagged with that slice's slice-of-day modulo 256; the driver
is enabled for it (R22). -/
def HeadLink.sync (h : HeadLink) (ended : Option Tag) : HeadLink :=
  match ended with
  | none => h
  | some t => { h with driverOn := true, syncTag := some (BitVec.ofNat 8 t.time.sod.val) }

end Sys2Proof.Machine
end

