-- ==== Sys2Proof/Machine/MeasurementCommands.lean ====
section
/-! DEFINITION. The commands of chapters 2, 4, 5, 6 and 7: CHANNEL_ON, CHANNEL_OFF, CLEAR_COUNTERS, CUT, SET_GAP,
SET_ACTIVITY_LINES, ACTIVITY_PULSE, SET_BACKGROUND, SET_EVENT, SET_EDGES, CLEAR_EDGES, READ_EDGES; and RESTART
(R182). -/

namespace Sys2Proof.Machine

/-! ### Chapter 2 -/

/-- The data of an OK response of CHANNEL_ON and CHANNEL_OFF: the channel and its link state (R38, R39; log
entry 15). -/
def channelData (c : Channel) (link : LinkState) : List Byte := put1 c.val ++ put1 link.code

/-- The rule of CHANNEL_ON (R38): timed for a channel that is OFF, at once and without effect for any other. -/
def channelOnRule (args : List Byte) (s : State) : Answer :=
  match finOf 8 (arg1 args 0) with
  | none => refuse s .range
  | some c =>
    if (s.channel c).enabled then .complete s .ok (channelData c (s.channel c).link) else .wait (.channelOn c)

/-- CHANNEL_ON. -/
def execChannelOn (p : Port) (rest : List Byte) (s : State) : Host.Outcome State Fault Refusal :=
  portCommand (authorityCommand 1) p rest channelOnRule s

/-- The rule of CHANNEL_OFF (R39): timed for a channel that is not OFF, at once and without effect for an OFF one. -/
def channelOffRule (args : List Byte) (s : State) : Answer :=
  match finOf 8 (arg1 args 0) with
  | none => refuse s .range
  | some c =>
    if (s.channel c).enabled then .wait (.channelOff c) else .complete s .ok (channelData c (s.channel c).link)

/-- CHANNEL_OFF. -/
def execChannelOff (p : Port) (rest : List Byte) (s : State) : Host.Outcome State Fault Refusal :=
  portCommand (authorityCommand 1) p rest channelOffRule s

/-- A sum over the channels, saturating at 65535 (R168, COUNTERS_CLEAR). -/
def channelSum (s : State) (f : ChannelState → Nat) : Nat := min Config.sat16 ((s.channels.toList.map f).sum)

/-- The channel with its LATE and DUP at 0. -/
def ChannelState.countsCleared (ch : ChannelState) : ChannelState := { ch with late := 0, dup := 0 }

/-- The state with every link counter at 0 (R31). -/
def State.countersCleared (s : State) : State :=
  { s with
    headLink := { s.headLink with crc := 0, stray := 0 }
    channels := s.channels.map ChannelState.countsCleared }

/-- The rule of CLEAR_COUNTERS (R31). -/
def clearCountersRule (p : Port) (_ : List Byte) (s : State) : Answer :=
  .complete
    (s.countersCleared.offerConfig p
      (.countersClear s.headLink.crc s.headLink.stray (channelSum s ChannelState.late) (channelSum s ChannelState.dup)))
    .ok []

/-- CLEAR_COUNTERS. -/
def execClearCounters (p : Port) (rest : List Byte) (s : State) : Host.Outcome State Fault Refusal :=
  portCommand (authorityCommand 0) p rest (clearCountersRule p) s

/-! ### Chapters 4 and 5 -/

/-- The rule of CUT (R66): a mask naming no channel is refused RANGE. -/
def cutRule (args : List Byte) (s : State) : Answer :=
  if argByte args 0 = 0 then refuse s .range else .wait (.cut (argByte args 0))

/-- CUT. -/
def execCut (p : Port) (rest : List Byte) (s : State) : Host.Outcome State Fault Refusal :=
  portCommand (authorityCommand 1) p rest cutRule s

/-- A SET_GAP argument: FFFFh is absent (R198). -/
def gapArg (n : Nat) : Option Nat := if n = 65535 then none else some n

/-- LOSS_COUNT as SET_GAP stores it (R92, step 1). -/
def storedLossCount (stored : Nat) : Option Nat → Nat
  | none => stored
  | some v => clamp 8 255 v

/-- CONCEAL_MAX as SET_GAP stores it, below the LOSS_COUNT of step 1 (R92, steps 2 and 3). -/
def storedConcealMax (stored lossCount : Nat) (given : Option Nat) : Nat :=
  let v := match given with
    | none => stored
    | some v => clamp 0 32 v
  if lossCount ≤ v then lossCount - 1 else v

/-- The rule of SET_GAP (R92). -/
def setGapRule (p : Port) (args : List Byte) (s : State) : Answer :=
  let conceal := gapArg (arg2 args 0)
  let loss := gapArg (arg2 args 2)
  if conceal = none ∧ loss = none then refuse s .range
  else
    let lossCount := storedLossCount s.settings.lossCount loss
    let concealMax := storedConcealMax s.settings.concealMax lossCount conceal
    let s' := { s with settings := { s.settings with concealMax := concealMax, lossCount := lossCount } }
    .complete (s'.offerConfig p (.gapSettings concealMax lossCount)) .ok (put1 concealMax ++ put1 lossCount)

/-- SET_GAP. -/
def execSetGap (p : Port) (rest : List Byte) (s : State) : Host.Outcome State Fault Refusal :=
  portCommand (authorityCommand 4) p rest (setGapRule p) s

/-! ### Chapter 6 -/

/-- The rule of SET_ACTIVITY_LINES (R96). -/
def setActivityLinesRule (p : Port) (args : List Byte) (s : State) : Answer :=
  let mask := argByte args 0
  let s' := { s with activity := { s.activity with enable := mask } }
  .complete (s'.offerConfig p (.activityLines mask s.activity.enable)) .ok [mask]

/-- SET_ACTIVITY_LINES. -/
def execSetActivityLines (p : Port) (rest : List Byte) (s : State) : Host.Outcome State Fault Refusal :=
  portCommand (authorityCommand 1) p rest (setActivityLinesRule p) s

/-- The rule of ACTIVITY_PULSE (R97): EMPTY while no slice is in progress. -/
def activityPulseRule (_ : List Byte) (s : State) : Answer :=
  match s.timebase.slice with
  | none => refuse s .empty
  | some t => .complete { s with activity := { s.activity with pulse := true } } .ok (putTime t.time)

/-- ACTIVITY_PULSE. -/
def execActivityPulse (p : Port) (rest : List Byte) (s : State) : Host.Outcome State Fault Refusal :=
  portCommand (siteCommand 0) p rest activityPulseRule s

/-- The rule of SET_BACKGROUND (R109). -/
def setBackgroundRule (p : Port) (args : List Byte) (s : State) : Answer :=
  let shift := clamp 4 12 (arg1 args 0)
  let min := clamp 8 65535 (arg2 args 1)
  let hold := arg2 args 3
  let s' := { s with settings := { s.settings with bgShift := shift, bgMin := min, quietHold := hold } }
  .complete (s'.offerConfig p (.background shift min hold)) .ok (put1 shift ++ put2 min ++ put2 hold)

/-- SET_BACKGROUND. -/
def execSetBackground (p : Port) (rest : List Byte) (s : State) : Host.Outcome State Fault Refusal :=
  portCommand (authorityCommand 5) p rest (setBackgroundRule p) s

/-- The rule of SET_EDGES (R99): no edge flag changes. -/
def setEdgesRule (p : Port) (args : List Byte) (s : State) : Answer :=
  .complete (s.mapPort p fun q => { q with rise := argByte args 0, fall := argByte args 1 }) .ok
    [argByte args 0, argByte args 1]

/-- SET_EDGES. -/
def execSetEdges (p : Port) (rest : List Byte) (s : State) : Host.Outcome State Fault Refusal :=
  portCommand (bothCommand 2) p rest (setEdgesRule p) s

/-- The rule of CLEAR_EDGES (R101). -/
def clearEdgesRule (p : Port) (args : List Byte) (s : State) : Answer :=
  .complete (s.mapPort p fun q => { q with edges := q.edges &&& ~~~(argByte args 0) }) .ok
    [(s.port p).edges &&& ~~~(argByte args 0)]

/-- CLEAR_EDGES. -/
def execClearEdges (p : Port) (rest : List Byte) (s : State) : Host.Outcome State Fault Refusal :=
  portCommand (bothCommand 1) p rest (clearEdgesRule p) s

/-- The rule of READ_EDGES (R102). -/
def readEdgesRule (p : Port) (_ : List Byte) (s : State) : Answer :=
  .complete s .ok [(s.port p).edges, (s.port p).rise, (s.port p).fall, s.activity.level]

/-- READ_EDGES. -/
def execReadEdges (p : Port) (rest : List Byte) (s : State) : Host.Outcome State Fault Refusal :=
  portCommand (bothCommand 0) p rest (readEdgesRule p) s

/-! ### Chapters 7 and 10 -/

/-- The rule of SET_EVENT (R129). -/
def setEventRule (p : Port) (args : List Byte) (s : State) : Answer :=
  let hold := clamp 1 255 (arg2 args 0)
  let cap := clamp 1 255 (arg2 args 2)
  let s' := { s with settings := { s.settings with eventHold := hold, eventCap := cap } }
  .complete (s'.offerConfig p (.eventSettings hold cap)) .ok (put1 hold ++ put1 cap)

/-- SET_EVENT. -/
def execSetEvent (p : Port) (rest : List Byte) (s : State) : Host.Outcome State Fault Refusal :=
  portCommand (authorityCommand 4) p rest (setEventRule p) s

/-- The rule of RESTART (R182): it waits for the next boundary. -/
def restartRule (_ : List Byte) (_ : State) : Answer := .wait .restart

/-- RESTART. -/
def execRestart (p : Port) (rest : List Byte) (s : State) : Host.Outcome State Fault Refusal :=
  portCommand (authorityCommand 0) p rest restartRule s

end Sys2Proof.Machine
end

