-- ==== Sys2Proof/Machine/Activity.lean ====
section
/-! DEFINITION. Chapter 6 at a slice end and at a line's edge: the activity verdict, the quiet timer, the prohibited
episode, the edge flags, and a channel's background estimator. -/

namespace Sys2Proof.Machine

/-! ### Edges (R95, R100) -/

/-- The port's edge flag of a line is set where its enable of that direction selects the line (R100). -/
def PortState.takeEdge (p : PortState) (enables : BitVec 8) (l : Line) : PortState :=
  if member enables l then { p with edges := withMember p.edges l true } else p

/-- A rise that is taken as an edge, by both ports (R100). -/
def State.takeRise (s : State) (l : Line) : State :=
  { s with site := s.site.takeEdge s.site.rise l, authority := s.authority.takeEdge s.authority.rise l }

/-- A fall that is taken as an edge, by both ports (R100). -/
def State.takeFall (s : State) (l : Line) : State :=
  { s with site := s.site.takeEdge s.site.fall l, authority := s.authority.takeEdge s.authority.fall l }

/-! ### The verdict (R98, R105, R111) and the quiet timer (R103) -/

/-- The verdict of the slice with tag `t` (R98). -/
def sliceVerdict (a : Activity) (t : Tag) (voided : Bool) : ActivityVerdict :=
  let lines := a.highSeen &&& a.enable
  let active := decide (lines ≠ 0) || a.pulse
  { slice := t.time
    lines := lines
    pulsed := a.pulse
    active := active
    quiet := decide (a.quiet = 0) && !active
    prohibited := !voided && !t.plant && decide (lines ≠ 0)
    voided := voided }

/-- The quiet timer after a slice end (R103). -/
def nextQuiet (active : Bool) (q quietHold : Nat) : Nat := if active then quietHold else q - 1

/-! ### The prohibited episode (R112 to R115) -/

/-- The episode that a prohibited slice opens (R112). -/
def openEpisode (v : ActivityVerdict) (cls : ClassNo) : Episode := ⟨v.slice, v.slice, 1, 1, 0, v.lines, cls⟩

/-- A further prohibited slice (R113). -/
def Episode.takeProhibited (e : Episode) (v : ActivityVerdict) : Episode :=
  { e with
    last := v.slice
    span := satAdd32 e.span (e.pause + 1)
    count := satAdd32 e.count 1
    pause := 0
    lines := e.lines ||| v.lines }

/-- The PROHIBITED record (R115). -/
def episodeOffer (e : Episode) (cause : Cause) : Offer :=
  ⟨none, e.start, .prohibited ⟨e.start, e.last, e.span, e.count, e.lines, e.cls, cause⟩⟩

/-- What a slice end leaves of the episode, and the record it offers. -/
structure EpisodeStep where
  episode : Option Episode
  offer : Option Offer
  deriving DecidableEq, Repr

/-- The episode at a slice end (R112, R113); a voided slice leaves it as it stands (R114). -/
def episodeStep (episode : Option Episode) (v : ActivityVerdict) (cls : ClassNo) : EpisodeStep :=
  if v.voided then ⟨episode, none⟩
  else
    match episode with
    | none => ⟨if v.prohibited then some (openEpisode v cls) else none, none⟩
    | some e =>
      if v.prohibited then ⟨some (e.takeProhibited v), none⟩
      else if Config.episodePause ≤ e.pause + 1 then ⟨none, some (episodeOffer { e with pause := e.pause + 1 } .pause)⟩
      else ⟨some { e with pause := e.pause + 1 }, none⟩

/-- The forced close of an open episode at a time step or RESTART (R114). -/
def EpisodeStep.force (st : EpisodeStep) (cause : Option Cause) : EpisodeStep :=
  match cause, st.episode with
  | some k, some e => ⟨none, some (episodeOffer e k)⟩
  | _, _ => st

/-- The cause with which a timed command closes the episode (R114). -/
def episodeCause : Option Timed → Option Cause
  | some (.setTime _ _) => some .timeStep
  | some .restart => some .restart
  | _ => none

/-! ### The slice end (R98) -/

/-- The verdict, quiet timer and episode at the end of the slice with tag `t`. -/
def Activity.judge (a : Activity) (t : Tag) (voided : Bool) (quietHold : Nat) : Activity × Option Offer :=
  let v := sliceVerdict a t voided
  let st := episodeStep a.episode v t.cls
  ({ a with
      quiet := nextQuiet v.active a.quiet quietHold
      newVerdict := some v
      oldVerdict := a.newVerdict
      episode := st.episode },
    st.offer)

/-- The marks of the slice that starts: each high-seen mark is set at once if its line is high (R95, R98), unless
that high is unseen (log entry 19). -/
def Activity.beginSlice (a : Activity) : Activity := { a with highSeen := a.level &&& ~~~a.unseen, pulse := false }

/-- The activity monitor's whole work at a boundary that ends the slice in progress, if one is: the slice is judged
(R98), the episode is closed by a time step or RESTART (R114), RESTART sets Q (R104), the marks start afresh. -/
def Activity.atBoundary (a : Activity) (slice : Option Tag) (timed : Option Timed) (quietHold : Nat) :
    Activity × Option Offer :=
  let judged : Activity × Option Offer :=
    match slice with
    | none => (a, none)
    | some t => a.judge t (isTimeStep timed) quietHold
  let forced := EpisodeStep.force ⟨judged.1.episode, judged.2⟩ (episodeCause timed)
  let q := if timed = some .restart then quietHold else judged.1.quiet
  (Activity.beginSlice { judged.1 with episode := forced.episode, quiet := q }, forced.offer)

/-- The episode closes by PAUSE at the boundary ahead (R113). -/
def Activity.pauseCloses (a : Activity) (slice : Option Tag) (timed : Option Timed) : Bool :=
  match slice, a.episode with
  | some t, some _ =>
    let v := sliceVerdict a t (isTimeStep timed)
    (episodeStep a.episode v t.cls).episode = none
  | _, _ => false

/-! ### The background estimator (R106, R107) -/

/-- The step of a channel's estimator at an account (R107). -/
def Estimator.step (e : Estimator) (quiet : Bool) (r : SliceResult) (bgShift : Nat) : Estimator :=
  match r with
  | .level l _ _ => if quiet then ⟨some (backgroundStep e.eb (energy l) bgShift), satInc16 e.nq⟩ else e
  | .missing => e
  | .cal => e

end Sys2Proof.Machine
end

