-- ==== Sys2Proof/Machine/Intervals.lean ====
section
/-! DEFINITION. Chapter 4 and the allowance of chapter 8: opening, adding, recomputing, closing and assessing an
interval, and the INTERVAL record. -/

namespace Sys2Proof.Machine

/-- What an account reads of the slice and of the device: the slice's tag, its verdict's active and quiet fields (R98),
the class table and the settings as they stand. -/
structure SliceContext where
  tag : Tag
  active : Bool
  quiet : Bool
  classes : Vector ClassParams 12
  settings : Settings
  deriving DecidableEq, Repr

/-- A background that is valid, with its Eb (R108): Nq at or above BG_MIN. -/
def Estimator.valid (e : Estimator) (bgMin : Nat) : Option Nat := if bgMin ≤ e.nq then e.eb else none

/-- P for an interval of LENGTH `length` slices that opens at slice-of-day `sod`: grid end − sod (R57). -/
def plannedLength (sod length : Nat) : Nat := (sod / length + 1) * length - sod

/-- Nacc (R55). -/
def Interval.nacc (iv : Interval) : Nat := iv.measured + iv.concealed

/-- A newly opened interval, with its copies of the class table's values (R18, R56, R57, R131). -/
def openInterval (x : SliceContext) : Interval :=
  let k := x.classes.get x.tag.cls
  let p := plannedLength x.tag.time.sod.val k.length.slices
  { cls := x.tag.cls
    limit := k.limit
    length := k.length
    lmax := k.lmax
    peak := k.peak
    cap := x.settings.eventCap
    openTime := x.tag.time
    planned := p
    elapsed := 0
    measured := 0
    concealed := 0
    missing := 0
    cal := 0
    sumTot := 0
    sumBg := 0
    nbg := 0
    lmaxSoFar := none
    peakMax := none
    eventCount := 0
    activitySlices := 0
    short := decide (p < k.length.slices)
    overload := false
    lmaxExceeded := false
    peakExceeded := false
    timeUnset := false
    exhaustedAt := none
    allowance := .clear
    rs := p }

/-- A value that was absent or below becomes the new one (R61). -/
def raise (old : Option Nat) (new : Nat) : Option Nat :=
  match old with
  | none => some new
  | some m => some (if m < new then new else m)

/-- The adding of a LEVEL result (R60, R61); `bg` is the Eb of a valid background. -/
def Interval.addLevel (iv : Interval) (l p : Nat) (overload : Bool) (bg : Option Nat) : Interval :=
  { iv with
    measured := iv.measured + 1
    sumTot := iv.sumTot + energy l
    sumBg := iv.sumBg + bg.getD 0
    nbg := iv.nbg + (if bg.isSome then 1 else 0)
    lmaxSoFar := raise iv.lmaxSoFar l
    peakMax := raise iv.peakMax p
    overload := iv.overload || overload
    lmaxExceeded := iv.lmaxExceeded || decide (iv.lmax ≤ l)
    peakExceeded := iv.peakExceeded || decide (iv.peak ≤ p) }

/-- What every add does, whatever the kind (R63). -/
def Interval.addSlice (iv : Interval) (x : SliceContext) : Interval :=
  { iv with
    elapsed := iv.elapsed + 1
    activitySlices := iv.activitySlices + (if x.active then 1 else 0)
    timeUnset := iv.timeUnset || !x.tag.timeValid }

/-- The add of a slice result to the open interval (R60 to R63). -/
def Interval.add (iv : Interval) (x : SliceContext) (r : SliceResult) (bg : Option Nat) : Interval :=
  match r with
  | .level l p overload => (iv.addLevel l p overload bg).addSlice x
  | .missing => { iv.addSlice x with missing := iv.missing + 1 }
  | .cal => { iv.addSlice x with cal := iv.cal + 1 }

/-- The recompute of the allowance, with exhausted-at (R132, R134). -/
def Interval.recompute (iv : Interval) (warnFraction : Nat) : Interval :=
  let a := allowanceState iv.planned iv.limit iv.sumTot iv.sumBg warnFraction
  { iv with
    allowance := a
    rs := allowanceSlices iv.planned iv.limit iv.sumTot iv.sumBg
    exhaustedAt := if a = .exhausted ∧ iv.exhaustedAt = none then some iv.elapsed else iv.exhaustedAt }

/-- The cause with which the close check closes the interval before a slice of class `cls` is added, if it does
(R59). -/
def Interval.closeCheck (iv : Interval) (cls : ClassNo) : Option Cause :=
  if iv.elapsed = iv.planned then some .length
  else if cls ≠ iv.cls then some .classChange
  else none

/-! ### Assessment at the close (R71 to R76) -/

/-- The outcome of the assessment. -/
structure Assessment where
  verdict : AssessVerdict
  ltot : Option Nat
  lbg : Option Nat
  lsite : Option Nat
  invalid : Bool
  noBackground : Bool
  dominated : Bool
  deriving DecidableEq, Repr

/-- The interval is INVALID: its base is 0, or Nacc × 4 is below base × 3 (R72). -/
def Interval.isInvalid (iv : Interval) : Bool :=
  let base := iv.elapsed - iv.cal
  decide (base = 0 ∨ iv.nacc * 4 < base * 3)

/-- Verdict of a level against LIMIT (R75). -/
def limitVerdict (level limit : Nat) (above : AssessVerdict) : AssessVerdict :=
  if level ≤ limit then .compliant else above

/-- The assessment of an interval that is not INVALID, from its two means (R73 to R75). -/
def assessValid (iv : Interval) (meanTot meanBg : Nat) : Assessment :=
  let ltot := lconv meanTot
  if iv.nbg * 2 < iv.nacc then
    ⟨limitVerdict ltot iv.limit .exceeded, some ltot, none, some ltot, false, true, false⟩
  else
    let lbg := lconv meanBg
    match siteLevel (correctionBand ltot lbg) meanTot meanBg with
    | some lsite =>
      ⟨limitVerdict lsite iv.limit .exceeded, some ltot, some lbg, some lsite, false, false, false⟩
    | none => ⟨limitVerdict ltot iv.limit .indeterminate, some ltot, some lbg, none, false, false, true⟩

/-- The assessment of an interval at its close (R71 to R75). -/
def assess (iv : Interval) : Assessment :=
  if iv.isInvalid then
    ⟨.invalid, meanLevel iv.sumTot iv.nacc, meanLevel iv.sumBg iv.nbg, none, true, false, false⟩
  else assessValid iv ((mean iv.sumTot iv.nacc).getD 0) ((mean iv.sumBg iv.nbg).getD 0)

/-- The INTERVAL record's body (R76, R77). -/
def intervalRecord (iv : Interval) (cause : Cause) : IntervalRecord :=
  let a := assess iv
  { cls := iv.cls
    cause := cause
    verdict := a.verdict
    short := iv.short
    overload := iv.overload
    lmaxExceeded := iv.lmaxExceeded
    peakExceeded := iv.peakExceeded
    timeUnset := iv.timeUnset
    eventsSuppressed := decide (iv.cap < iv.eventCount)
    invalid := a.invalid
    noBackground := a.noBackground
    dominated := a.dominated
    limit := iv.limit
    planned := iv.planned
    elapsed := iv.elapsed
    measured := iv.measured
    concealed := iv.concealed
    missing := iv.missing
    cal := iv.cal
    nbg := iv.nbg
    ltot := a.ltot
    lbg := a.lbg
    lsite := a.lsite
    lmax := iv.lmaxSoFar
    peakMax := iv.peakMax
    eventCount := iv.eventCount
    activitySlices := iv.activitySlices
    exhaustedAt := iv.exhaustedAt }

/-- The INTERVAL record offered at a close: the channel, and the open time as its time (R77). -/
def intervalOffer (c : Channel) (iv : Interval) (cause : Cause) : Offer :=
  ⟨some c, iv.openTime, .interval (intervalRecord iv cause)⟩

end Sys2Proof.Machine
end

