-- ==== Sys2Proof/Machine/Gaps.lean ====
section
/-! DEFINITION. Chapter 5: gap runs, their ends, concealment, and the GAP record. -/

namespace Sys2Proof.Machine

/-- E_before of a run that starts now: the energy of the previous result, where that is LEVEL (R82). -/
def energyBefore : Option PrevResult → Option Nat
  | some (.level e) => some e
  | some .missing => none
  | some .cal => none
  | none => none

/-- The run that a MISSING result starts, with the interval as it stands after the add (R82). -/
def startRun (t : Time) (prev : Option PrevResult) (iv : Interval) : GapRun :=
  ⟨t, t, 1, energyBefore prev, iv.openTime, true, decide (iv.elapsed = 1)⟩

/-- The run that a MISSING result extends (R83). -/
def GapRun.extend (g : GapRun) (t : Time) : GapRun := { g with last := t, length := satAdd32 g.length 1 }

/-- Every close of the channel's interval sets home open to no (R84). -/
def GapRun.homeClosed (g : GapRun) : GapRun := { g with homeOpen := false }

/-- The first of the four conditions of concealment that fails, if one does (R85). -/
def GapRun.refusal (g : GapRun) (concealMax : Nat) : Option ConcealRefusal :=
  if concealMax < g.length then some .tooLong
  else if g.before = none then some .noLevelBefore
  else if g.homeOpen = false then some .intervalClosed
  else if g.atStart then some .intervalStart
  else none

/-- The fill of a concealed run of `n` slices: each takes the concealment energy, and the background that is valid at
the run's end (R86, R87). -/
def Interval.conceal (iv : Interval) (n ec : Nat) (bg : Option Nat) : Interval :=
  { iv with
    missing := iv.missing - n
    concealed := iv.concealed + n
    sumTot := iv.sumTot + n * ec
    sumBg := iv.sumBg + n * bg.getD 0
    nbg := iv.nbg + (if bg.isSome then n else 0) }

/-- The GAP record of a run that ends unconcealed with a length of 8 or more (R91). -/
def gapOffer (c : Channel) (g : GapRun) (cause : Cause) (refusal : Option ConcealRefusal) : Option Offer :=
  if Config.gapRecordLength ≤ g.length then
    some ⟨some c, g.start, .gap ⟨g.start, g.last, g.length, cause, refusal, g.before.isSome, g.homeOpenTime⟩⟩
  else none

/-- What the gap-run step of an account leaves: the interval, the run and the GAP record it offers. -/
structure GapStep where
  interval : Interval
  gap : Option GapRun
  offer : Option Offer
  deriving DecidableEq, Repr

/-- The end of a run by a LEVEL result of energy `after` (R85 to R88). -/
def endRunByLevel (x : SliceContext) (c : Channel) (g : GapRun) (iv : Interval) (after : Nat) (bg : Option Nat) :
    GapStep :=
  match g.refusal x.settings.concealMax with
  | some why => ⟨iv, none, gapOffer c g .level (some why)⟩
  | none =>
    let filled := iv.conceal g.length (concealEnergy (g.before.getD 0) after) bg
    ⟨filled.recompute x.settings.warnFraction, none, none⟩

/-- The gap-run step of an account, with the interval as it stands after the add (R82, R83, R85, R89). -/
def gapStep (x : SliceContext) (c : Channel) (gap : Option GapRun) (prev : Option PrevResult) (iv : Interval)
    (r : SliceResult) (bg : Option Nat) : GapStep :=
  match r, gap with
  | .missing, none => ⟨iv, some (startRun x.tag.time prev iv), none⟩
  | .missing, some g => ⟨iv, some (g.extend x.tag.time), none⟩
  | .cal, some g => ⟨iv, none, gapOffer c g .cal none⟩
  | .cal, none => ⟨iv, none, none⟩
  | .level l _ _, some g => endRunByLevel x c g iv (energy l) bg
  | .level _ _ _, none => ⟨iv, none, none⟩

end Sys2Proof.Machine
end

