-- ==== Sys2Proof/Machine/Events.lean ====
section
/-! DEFINITION. Chapter 7: triggering, opening, retriggering, holding and closing impulsive events, and the EVENT
record. -/

namespace Sys2Proof.Machine

/-- A LEVEL slice that reaches a threshold; MISSING and CAL never trigger (R118). -/
def triggers (lmax peak : Nat) : SliceResult → Bool
  | .level l p _ => decide (lmax ≤ l ∨ peak ≤ p)
  | .missing => false
  | .cal => false

/-- The event that a triggering slice opens, in the interval whose count it has just raised (R119, R120). -/
def openEvent (t : Time) (hold : Nat) (iv : Interval) (l p : Nat) : Event :=
  { start := t
    lastTrigger := t
    age := 1
    duration := 1
    hold := hold
    sum := energy l
    lmax := l
    peak := p
    pending := none
    lmaxThreshold := iv.lmax
    peakThreshold := iv.peak
    homeClass := iv.cls
    homeOpenTime := iv.openTime
    suppressed := decide (iv.cap < iv.eventCount) }

/-- A retrigger: the pending values are folded in, then the slice (R121). -/
def Event.retrigger (e : Event) (t : Time) (hold l p : Nat) : Event :=
  let q := e.pending.getD ⟨0, 0, 0⟩
  { e with
    lastTrigger := t
    age := e.age + 1
    duration := e.age + 1
    hold := hold
    sum := e.sum + q.energy + energy l
    lmax := max (max e.lmax q.lmax) l
    peak := max (max e.peak q.peak) p
    pending := none }

/-- The pending values with a LEVEL slice taken in (R122). -/
def takePending (q : Option Pending) (l p : Nat) : Pending :=
  match q with
  | none => ⟨energy l, l, p⟩
  | some q => ⟨q.energy + energy l, max q.lmax l, max q.peak p⟩

/-- A slice that does not trigger: a LEVEL goes into the pending values, and H falls by 1 (R122). -/
def Event.countDown (e : Event) (r : SliceResult) : Event :=
  { e with
    age := e.age + 1
    hold := e.hold - 1
    pending := match r with
      | .level l p _ => some (takePending e.pending l p)
      | .missing => e.pending
      | .cal => e.pending }

/-- The EVENT record of a closing event, unless it is suppressed (R126, R127). -/
def eventOffer (c : Channel) (e : Event) (cause : Cause) : Option Offer :=
  if e.suppressed then none
  else
    some ⟨some c, e.start, .event
      { start := e.start
        lastTrigger := e.lastTrigger
        duration := e.duration
        homeClass := e.homeClass
        homeOpenTime := e.homeOpenTime
        lmaxThreshold := e.lmaxThreshold
        peakThreshold := e.peakThreshold
        lmax := e.lmax
        peakMax := e.peak
        exposure := exposureLevel e.sum
        cause := cause }⟩

/-- What the event detector leaves of an account: the interval with its event count, the context, the cause with which
the event closed, and the record it offers. -/
structure EventStep where
  interval : Interval
  event : Option Event
  closed : Option Cause
  offer : Option Offer
  deriving DecidableEq, Repr

/-- The event after an account, kept open or closed (R122, R123): `cause` says why it closes. -/
def settleEvent (c : Channel) (iv : Interval) (e : Event) (cause : Option Cause) : EventStep :=
  match cause with
  | none => ⟨iv, some e, none, none⟩
  | some k => ⟨iv, none, some k, eventOffer c e k⟩

/-- An account on a channel whose context is OPEN (R121 to R123): the hold test comes before the age test. -/
def openContextStep (x : SliceContext) (c : Channel) (iv : Interval) (e : Event) (r : SliceResult) : EventStep :=
  match r with
  | .level l p _ =>
    if triggers e.lmaxThreshold e.peakThreshold r then
      let e' := e.retrigger x.tag.time x.settings.eventHold l p
      settleEvent c iv e' (if Config.eventLongAge ≤ e'.age then some .long else none)
    else
      let e' := e.countDown r
      settleEvent c iv e' (if e'.hold = 0 then some .hold else if Config.eventLongAge ≤ e'.age then some .long else none)
  | _ =>
    let e' := e.countDown r
    settleEvent c iv e' (if e'.hold = 0 then some .hold else if Config.eventLongAge ≤ e'.age then some .long else none)

/-- The event detector's step of an account (R117): in IDLE a slice that triggers on the interval's thresholds opens an
event and raises the interval's event count (R64, R119). -/
def eventStep (x : SliceContext) (c : Channel) (iv : Interval) (event : Option Event) (r : SliceResult) : EventStep :=
  match event with
  | some e => openContextStep x c iv e r
  | none =>
    match r with
    | .level l p _ =>
      if triggers iv.lmax iv.peak r then
        let counted := { iv with eventCount := satInc16 iv.eventCount }
        ⟨counted, some (openEvent x.tag.time x.settings.eventHold counted l p), none, none⟩
      else ⟨iv, none, none, none⟩
    | .missing => ⟨iv, none, none, none⟩
    | .cal => ⟨iv, none, none, none⟩

end Sys2Proof.Machine
end

