-- ==== Sys2Proof/Machine/Boundary.lean ====
section
/-! DEFINITION. All the work of a boundary: the accounts of the deadline (R24, R58), the slice end (R98), the timed
command that takes effect with its forced closes (R19, R38, R39, R65, R182), the new slice (R5), the SYNC (R23), the
record batch (R153) and the completion of the timed command (R179). -/

namespace Sys2Proof.Machine

/-! ### One channel's account (R58) -/

/-- A channel in the middle of a boundary's work: its state, the cause with which an account has closed its event, and
the records it offers, each kind in its place (R153). -/
structure ChannelWork where
  ch : ChannelState
  eventClosed : Option Cause
  gapRecord : Option Offer
  eventRecord : Option Offer
  naturalRecord : Option Offer
  forcedRecord : Option Offer
  deriving DecidableEq, Repr

/-- A channel with no work done on it. -/
def ChannelWork.start (ch : ChannelState) : ChannelWork := ⟨ch, none, none, none, none, none⟩

/-- The channel with its open interval closed, which sets the home open of its gap run to no (R84). -/
def ChannelState.closed (ch : ChannelState) : ChannelState :=
  { ch with interval := none, gap := ch.gap.map GapRun.homeClosed }

/-- The close check of an account (R59): the channel after it and the INTERVAL record of the close. An open event stays
open (R124). -/
def closeStep (x : SliceContext) (c : Channel) (ch : ChannelState) : ChannelState × Option Offer :=
  match ch.interval with
  | none => (ch, none)
  | some iv =>
    match iv.closeCheck x.tag.cls with
    | none => (ch, none)
    | some cause => (ch.closed, some (intervalOffer c iv cause))

/-- One channel's account of a slice result (R58): close check, open, add and recompute, gap-run step (with its own
recompute after a fill, R133), event step, background step, and the previous result. -/
def account (x : SliceContext) (c : Channel) (ch : ChannelState) (r : SliceResult) : ChannelWork :=
  let closed := closeStep x c ch
  let iv := closed.1.interval.getD (openInterval x)
  let bg := ch.background.valid x.settings.bgMin
  let added := (iv.add x r bg).recompute x.settings.warnFraction
  let g := gapStep x c closed.1.gap ch.prev added r bg
  let e := eventStep x c g.interval ch.event r
  { ch := { closed.1 with
      interval := some e.interval
      gap := g.gap
      event := e.event
      prev := some r.prev
      background := ch.background.step x.quiet r x.settings.bgShift }
    eventClosed := e.closed
    gapRecord := g.offer
    eventRecord := e.offer
    naturalRecord := closed.2
    forcedRecord := none }

/-- The slice context of the accounts at a boundary: the slice that ended last, with its verdict (R63, R107). -/
def State.sliceContext (s : State) (t : Tag) : SliceContext where
  tag := t
  active := (s.activity.newVerdict.map ActivityVerdict.active).getD false
  quiet := (s.activity.newVerdict.map ActivityVerdict.quiet).getD false
  classes := s.timebase.classes
  settings := s.settings

/-- The deadline of the slice that ended last, for one channel (R24, R37): the link moves; the result is kept and
accounted, unless the slice is voided, whose results are discarded. No slice before means no deadline. -/
def deadline (s : State) (c : Channel) : ChannelWork :=
  let ch := s.channel c
  match s.timebase.lastSlice with
  | none => ChannelWork.start ch
  | some ended =>
    match deadlineLink s.settings.lossCount ch with
    | (ch', none) => ChannelWork.start ch'
    | (ch', some r) =>
      if ended.voided then ChannelWork.start ch'
      else account (s.sliceContext ended.tag) c { ch' with lastResult := some r.kept } r

/-! ### Forced ends (R65, R90, R125) -/

/-- The forced end of a gap run (R90). -/
def ChannelWork.endGap (w : ChannelWork) (c : Channel) (cause : Cause) : ChannelWork :=
  match w.ch.gap with
  | none => w
  | some g => { w with ch := { w.ch with gap := none }, gapRecord := (gapOffer c g cause none).or w.gapRecord }

/-- The forced close of an open event (R125, R126). -/
def ChannelWork.endEvent (w : ChannelWork) (c : Channel) (cause : Cause) : ChannelWork :=
  match w.ch.event with
  | none => w
  | some e => { w with ch := { w.ch with event := none }, eventRecord := (eventOffer c e cause).or w.eventRecord }

/-- The forced close of the open interval (R65). -/
def ChannelWork.endInterval (w : ChannelWork) (c : Channel) (cause : Cause) : ChannelWork :=
  match w.ch.interval with
  | none => w
  | some iv => { w with ch := w.ch.closed, forcedRecord := some (intervalOffer c iv cause) }

/-- CUT on a channel of its mask: it closes the open interval with the open event, and passes over a channel that is
OFF or has no open interval (R66, R67). -/
def ChannelWork.cut (w : ChannelWork) (c : Channel) : ChannelWork :=
  if w.ch.enabled && w.ch.interval.isSome then (w.endEvent c .cut).endInterval c .cut else w

/-- All forced ends of a time step, CHANNEL_OFF or RESTART on a channel, after which its previous result is absent
(R65, R68, R69, R70, R81, R90, R125). -/
def ChannelWork.closeAll (w : ChannelWork) (c : Channel) (cause : Cause) : ChannelWork :=
  let w := ((w.endGap c cause).endEvent c cause).endInterval c cause
  { w with ch := { w.ch with prev := none } }

/-- CHANNEL_ON at its boundary (R38, R81, R106). -/
def ChannelState.switchOn (ch : ChannelState) : ChannelState :=
  { ch with
    link := .search
    acquire := 0
    miss := 0
    held := none
    lastResult := none
    prev := none
    background := Estimator.reset }

/-- CHANNEL_OFF at its boundary, after the forced closes (R39, R106). -/
def ChannelState.switchOff (ch : ChannelState) : ChannelState :=
  { ch with link := .off, acquire := 0, miss := 0, held := none, background := Estimator.reset }

/-- RESTART on a channel at its boundary, after the forced closes (R30, R40, R106). -/
def ChannelState.restarted (ch : ChannelState) : ChannelState :=
  { ch with
    link := if ch.link = .off then .off else .search
    acquire := 0
    miss := 0
    late := 0
    dup := 0
    background := Estimator.reset }

/-- What a timed command does to one channel at its boundary, after the channel's account there. -/
def ChannelWork.takeTimed (w : ChannelWork) (timed : Option Timed) (c : Channel) : ChannelWork :=
  match timed with
  | none => w
  | some (.setTime _ _) => w.closeAll c .timeStep
  | some (.cut mask) => if member mask c then w.cut c else w
  | some (.channelOn n) => if c = n then { w with ch := w.ch.switchOn } else w
  | some (.channelOff n) =>
    if c = n then
      let w := w.closeAll c .channelOff
      { w with ch := w.ch.switchOff }
    else w
  | some .restart =>
    let w := w.closeAll c .restart
    { w with ch := w.ch.restarted }

/-- One channel's whole work at a boundary. -/
def channelWork (s : State) (timed : Option Timed) (c : Channel) : ChannelWork := (deadline s c).takeTimed timed c

/-! ### The batch (R153) -/

/-- A channel's records in the order of the List of Batch Order. -/
def ChannelWork.records (w : ChannelWork) : List Offer :=
  w.gapRecord.toList ++ w.eventRecord.toList ++ w.naturalRecord.toList ++ w.forcedRecord.toList

/-- The channels whose interval a CUT with this mask closes at the boundary (R66). -/
def cutSet (s : State) (mask : BitVec 8) : BitVec 8 :=
  setOf fun c => member mask c && ((deadline s c).ch.enabled && (deadline s c).ch.interval.isSome)

/-- The CONFIG record of a timed command at its boundary, at the time `now` of the slice that starts there (R167,
R168). A CHANNEL_OFF names the link state that the boundary's deadline left (log entry 17). -/
def timedOffer (s : State) (now : Time) : Timed → Offer
  | .setTime time weekday =>
    ⟨none, now, .config .authority (.time time weekday (s.timebase.slice.map Tag.time) s.timebase.timeValid)⟩
  | .cut mask => ⟨none, now, .config .authority (.cut mask (cutSet s mask))⟩
  | .channelOn c => ⟨some c, now, .config .authority (.channelOn .search)⟩
  | .channelOff c => ⟨some c, now, .config .authority (.channelOff (deadline s c).ch.link)⟩
  | .restart => ⟨none, now, .config .authority (.restart s.log.next)⟩

/-- The data of a timed command's OK response (R66, R38, R39, R182; SET_TIME names none). -/
def timedData (s : State) : Timed → List Byte
  | .setTime _ _ => []
  | .cut mask => [mask, cutSet s mask]
  | .channelOn c => put1 c.val ++ put1 LinkState.search.code
  | .channelOff c => put1 c.val ++ put1 LinkState.off.code
  | .restart => put4 s.log.next.toNat

/-- The records offered at a boundary, in the order of the List of Batch Order (R153): the channels' in channel order,
the PROHIBITED record, the CONFIG record of the timed command. -/
def batch (s : State) (timed : Option Timed) (now : Time) : List Offer :=
  (Oct.ofFn (channelWork s timed)).toList.flatMap ChannelWork.records ++
    (s.activity.atBoundary s.timebase.slice timed s.settings.quietHold).2.toList ++
    (timed.map (timedOffer s now)).toList

/-! ### The boundary -/

/-- The timed command completes on its port: OK with its data, COLLIDED copied into the response and cleared (R175,
R179). -/
def PortState.complete (p : PortState) (data : List Byte) : PortState :=
  { p with command := .done ⟨.ok, p.collided, data⟩, collided := false }

/-- The port with every snapshot slot empty (R182). -/
def PortState.emptySlots (p : PortState) : PortState := { p with slots := Oct.fill none }

/-- What a timed command does to the ports at its boundary (R179, R182). -/
def completeTimed (before : State) (timed : Option Timed) (s : State) : State :=
  match timed with
  | none => s
  | some .restart =>
    { s with
      site := s.site.emptySlots
      authority := s.authority.emptySlots.complete (timedData before .restart) }
  | some t => { s with authority := s.authority.complete (timedData before t) }

/-- The head link's device-wide state after a boundary: RESTART sets CRC and STRAY to 0 (R30), and the SYNC is sent
(R23). -/
def HeadLink.atBoundary (h : HeadLink) (ended : Option Tag) (timed : Option Timed) : HeadLink :=
  let h := if timed = some .restart then { h with crc := 0, stray := 0 } else h
  h.sync ended

/-- All boundary work, once a frame still in reception has been ended. -/
def boundaryWork (s : State) : State :=
  let timed := s.pendingTimed
  let timebase := s.timebase.atBoundary timed
  completeTimed s timed
    { s with
      timebase := timebase
      headLink := s.headLink.atBoundary s.timebase.slice timed
      channels := Oct.ofFn fun c => (channelWork s timed c).ch
      activity := (s.activity.atBoundary s.timebase.slice timed s.settings.quietHold).1
      log := s.log.takeAll timebase.time (batch s timed timebase.time) }

/-- The slice clock runs: the crystal has started and NRST is not held low (R1; log entry 11). -/
def State.clockRuns (s : State) : Bool := s.crystalRunning && !s.nrstLow

/-- The boundary that a running slice clock reaches; a clock that stands still reaches none (R1, R22). -/
def reachBoundary (heard : List Byte) (s : State) : State :=
  if s.clockRuns then boundaryWork (frameAtBoundary heard s) else s

/-- A boundary at which the event named by the command comes about: where its cause holds the boundary is reached, with
all its work; where it does not, no such event comes about and nothing changes (log entry 4). -/
def reachBoundaryIf (occurs : State → Bool) (heard : List Byte) (s : State) : State :=
  if s.clockRuns && occurs (frameAtBoundary heard s) then reachBoundary heard s else s

end Sys2Proof.Machine
end

