-- ==== Sys2Proof/Machine/Resets.lean ====
section
/-! DEFINITION. Power-on, the start of the slice clock, and the pin reset (scope, "Reset kinds"; R1, R183). -/

namespace Sys2Proof.Machine

/-- A transaction that a reset has fallen on (R183; for power-on log entry 7). -/
def PortState.spoiled (p : PortState) : Option Transaction := p.transaction.map Transaction.spoil

/-- The state that power-on gives: everything as State.reset has it, but for the pins, whose levels the world sets, and
the model's own queue and counter (log entry 2). -/
def powerOnState (s : State) : State :=
  { State.reset with
    nrstLow := s.nrstLow
    activity := Activity.resetAt s.activity.level
    site := PortState.resetWith s.site.spoiled
    authority := PortState.resetWith s.authority.spoiled
    shortHighs := s.shortHighs
    pending := s.pending }

/-- POWER_ON (R1). -/
def execPowerOn (s : State) : Host.Outcome State Fault Refusal := .next (powerOnState s)

/-- SLICE_CLOCK_START (R1): the crystal runs. Once it does, no further start comes about before the next power-on. The
first boundary is a later BOUNDARY (log entry 11). -/
def execSliceClockStart (s : State) : Host.Outcome State Fault Refusal := .next { s with crystalRunning := true }

/-- A channel whose open work is discarded without a record (R79, R94, R130). -/
def ChannelState.abandoned (ch : ChannelState) : ChannelState :=
  { ch with interval := none, gap := none, prev := none, event := none, held := none }

/-- A port whose pending command and response are discarded, with the transaction in progress spoiled (R21,
R183). -/
def PortState.abandoned (p : PortState) : PortState :=
  { p with command := .idle, collided := false, transaction := p.spoiled }

/-- The state when NRST falls: the slice in progress is abandoned with everything else, open work and held records are
discarded (R1, R79, R114, R130, R171, R183). The settings wait for the release (log entry 8). -/
def nrstLowState (s : State) : State :=
  { s with
    nrstLow := true
    timebase := { s.timebase with slice := none, lastSlice := none }
    headLink := { s.headLink with driverOn := false, inFrame := [] }
    channels := s.channels.map ChannelState.abandoned
    activity := { s.activity with episode := none, unseen := 0 }
    log := { s.log with records := [], openLoss := none }
    site := s.site.abandoned
    authority := s.authority.abandoned }

/-- NRST_LOW (R1): a fall of a pin that is already low cannot come about (log entry 21). -/
def execNrstLow (s : State) : Host.Outcome State Fault Refusal := .next (if s.nrstLow then s else nrstLowState s)

/-- The pin-reset values: those of power-on, but for the routes and the routing lock (R148) and the crystal, which runs
on. A transaction that NRST fell on stays spoiled, one begun under the low NRST does not count as such (log entry
14). -/
def pinResetState (s : State) : State :=
  { powerOnState s with
    nrstLow := false
    crystalRunning := s.crystalRunning
    matrix := s.matrix
    site := PortState.resetWith s.site.transaction
    authority := PortState.resetWith s.authority.transaction }

/-- NRST_RELEASE (R1, R143): a release of a pin that is not low cannot come about. -/
def execNrstRelease (s : State) : Host.Outcome State Fault Refusal := .next (if s.nrstLow then pinResetState s else s)

end Sys2Proof.Machine
end

