-- ==== Sys2Proof/Machine/StatusCommands.lean ====
section
/-! DEFINITION. The commands of chapter 10 that read, latch and choose attention: SET_ATTENTION, LATCH, READ_SNAPSHOT,
READ_DEVICE_STATUS, READ_CHANNEL_STATUS, READ_CONFIG. -/

namespace Sys2Proof.Machine

/-! ### Levels formed on request (R53) -/

/-- The running level of an open interval. -/
def Interval.runningLevel (iv : Interval) : Option Nat := meanLevel iv.sumTot iv.nacc

/-- The background level of a channel, absent while its background is not valid (R53, R110). -/
def Estimator.level (e : Estimator) (bgMin : Nat) : Option Nat := (e.valid bgMin).map lconv

/-! ### SET_ATTENTION, LATCH, READ_SNAPSHOT -/

/-- The rule of SET_ATTENTION (R191). -/
def setAttentionRule (p : Port) (args : List Byte) (s : State) : Answer :=
  let mask := argByte args 0
  if mask &&& ~~~conditionBits ≠ 0 then refuse s .range
  else .complete (s.mapPort p fun q => { q with attention := mask }) .ok [mask, s.conditions p]

/-- SET_ATTENTION. -/
def execSetAttention (p : Port) (rest : List Byte) (s : State) : Host.Outcome State Fault Refusal :=
  portCommand (bothCommand 1) p rest (setAttentionRule p) s

/-- The OFF image of a channel (R186). -/
def offImage (t : Time) : Capture :=
  ⟨t, .off, none, none, none, none, none, none, none, none, 0, .clear, none, false, none, none⟩

/-- The capture of a channel as the state stands (R185, R186). -/
def State.capture (s : State) (c : Channel) : Capture :=
  let ch := s.channel c
  let t := s.timebase.time
  if ch.enabled = false then offImage t
  else
    { latchTime := t
      link := ch.link
      cls := ch.interval.map Interval.cls
      openTime := ch.interval.map Interval.openTime
      planned := ch.interval.map Interval.planned
      elapsed := ch.interval.map Interval.elapsed
      nacc := ch.interval.map Interval.nacc
      runningLevel := ch.interval.bind Interval.runningLevel
      lmax := ch.interval.bind Interval.lmaxSoFar
      backgroundLevel := ch.background.level s.settings.bgMin
      nq := ch.background.nq
      allowance := ch.allowance
      rs := ch.interval.map Interval.rs
      eventOpen := ch.event.isSome
      eventDuration := ch.event.map Event.duration
      lastResult := ch.lastResult }

/-- The channels of a mask whose slot in this port is empty (R184). -/
def capturedSet (q : PortState) (mask : BitVec 8) : BitVec 8 :=
  setOf fun c => member mask c && (q.slots.get c).isNone

/-- The channels of a mask that are passed over because their slot is full (R184). -/
def passedSet (q : PortState) (mask : BitVec 8) : BitVec 8 :=
  setOf fun c => member mask c && (q.slots.get c).isSome

/-- The slots after a LATCH: the first latch wins (R184). -/
def latchedSlots (s : State) (q : PortState) (mask : BitVec 8) : Oct (Option Capture) :=
  Oct.ofFn fun c => if member mask c && (q.slots.get c).isNone then some (s.capture c) else q.slots.get c

/-- The rule of LATCH (R184). -/
def latchRule (p : Port) (args : List Byte) (s : State) : Answer :=
  let mask := argByte args 0
  if mask = 0 then refuse s .range
  else
    .complete (s.mapPort p fun q => { q with slots := latchedSlots s q mask }) .ok
      [capturedSet (s.port p) mask, passedSet (s.port p) mask]

/-- LATCH. -/
def execLatch (p : Port) (rest : List Byte) (s : State) : Host.Outcome State Fault Refusal :=
  portCommand (bothCommand 1) p rest (latchRule p) s

/-- The rule of READ_SNAPSHOT (R187). -/
def readSnapshotRule (p : Port) (args : List Byte) (s : State) : Answer :=
  match finOf 8 (arg1 args 0) with
  | none => refuse s .range
  | some c =>
    match (s.port p).slots.get c with
    | none => refuse s .empty
    | some k => .complete (s.mapPort p fun q => { q with slots := q.slots.set c none }) .ok k.bytes

/-- READ_SNAPSHOT. -/
def execReadSnapshot (p : Port) (rest : List Byte) (s : State) : Host.Outcome State Fault Refusal :=
  portCommand (bothCommand 1) p rest (readSnapshotRule p) s

/-! ### READ_DEVICE_STATUS (R188) -/

/-- The Time and Calendar groups. -/
def timeStatus (s : State) : List Byte :=
  putTime s.timebase.time ++ put1 (boolCode s.timebase.timeValid) ++ put1 s.timebase.weekdayOffset.val ++
    put1? (s.timebase.slice.map fun t => (slotOf t.time).val) ++
    put1? (s.timebase.slice.map fun t => t.profile.code) ++ put1? (s.timebase.slice.map fun t => t.cls.val) ++
    put1? (s.timebase.slice.map fun t => boolCode t.plant)

/-- The Head link and Activity groups. -/
def lineStatus (s : State) : List Byte :=
  put2 s.headLink.crc ++ put2 s.headLink.stray ++ [s.activity.level] ++ put2 s.activity.quiet

/-- The Prohibited running group. -/
def episodeStatus (s : State) : List Byte :=
  put1 (boolCode s.activity.episode.isSome) ++ putTime? (s.activity.episode.map Episode.start) ++
    putTime? (s.activity.episode.map Episode.last) ++ put4? (s.activity.episode.map Episode.span) ++
    put4? (s.activity.episode.map Episode.count) ++
    put1? (s.activity.episode.map fun e => e.lines.toNat) ++ put1? (s.activity.episode.map fun e => e.cls.val)

/-- The Interlock and Log groups. -/
def logStatus (s : State) : List Byte :=
  [s.outs] ++ put4 s.sources.toNat ++ put2 s.log.held ++
    put4? (s.log.oldest.map fun r => r.1.seq.toNat) ++ put4 s.log.next.toNat ++
    put1 (boolCode s.log.openLoss.isSome) ++ put4 s.log.cursor.toNat ++ put4 s.log.lag

/-- The Ports group, for the issuing port. -/
def portStatus (s : State) (p : Port) : List Byte :=
  put1? (s.pendingTimed.map Timed.code) ++ [(s.port p).attention, s.conditions p]

/-- The rule of READ_DEVICE_STATUS (R188; for the widths log entry 15). -/
def readDeviceStatusRule (p : Port) (_ : List Byte) (s : State) : Answer :=
  .complete s .ok (timeStatus s ++ lineStatus s ++ episodeStatus s ++ logStatus s ++ portStatus s p)

/-- READ_DEVICE_STATUS. -/
def execReadDeviceStatus (p : Port) (rest : List Byte) (s : State) : Host.Outcome State Fault Refusal :=
  portCommand (bothCommand 0) p rest (readDeviceStatusRule p) s

/-! ### READ_CHANNEL_STATUS (R189) -/

/-- The Link group. -/
def linkStatus (ch : ChannelState) : List Byte :=
  put1 ch.link.code ++ put2 ch.acquire ++ put2 ch.miss ++ put2 ch.late ++ put2 ch.dup ++
    put1? (ch.lastResult.map KeptResult.code) ++ put2? (ch.lastResult.bind KeptResult.level?)

/-- The Interval and Allowance groups. -/
def intervalStatus (ch : ChannelState) : List Byte :=
  put1? (ch.interval.map fun iv => iv.cls.val) ++ putTime? (ch.interval.map Interval.openTime) ++
    put2? (ch.interval.map Interval.planned) ++ put2? (ch.interval.map Interval.elapsed) ++
    put2? (ch.interval.map Interval.nacc) ++ put2? (ch.interval.bind Interval.runningLevel) ++
    put2? (ch.interval.bind Interval.lmaxSoFar) ++ put2? (ch.interval.map Interval.eventCount) ++
    put1 ch.allowance.code ++ put2? (ch.interval.map Interval.rs) ++ put2? (ch.interval.bind Interval.exhaustedAt)

/-- The Gap run, Event and Background groups. -/
def eventStatus (ch : ChannelState) (bgMin : Nat) : List Byte :=
  putTime? (ch.gap.map GapRun.start) ++ put4? (ch.gap.map GapRun.length) ++ put1 (boolCode ch.event.isSome) ++
    putTime? (ch.event.map Event.start) ++ put2? (ch.event.map Event.age) ++ put2? (ch.event.map Event.duration) ++
    put2? (ch.event.map Event.hold) ++ put1? (ch.event.map fun e => boolCode e.suppressed) ++
    put2 ch.background.nq ++ put2? (ch.background.level bgMin)

/-- The rule of READ_CHANNEL_STATUS (R78, R137, R189; for the widths log entry 15). -/
def readChannelStatusRule (args : List Byte) (s : State) : Answer :=
  match finOf 8 (arg1 args 0) with
  | none => refuse s .range
  | some c =>
    .complete s .ok
      (linkStatus (s.channel c) ++ intervalStatus (s.channel c) ++ eventStatus (s.channel c) s.settings.bgMin)

/-- READ_CHANNEL_STATUS. -/
def execReadChannelStatus (p : Port) (rest : List Byte) (s : State) : Host.Outcome State Fault Refusal :=
  portCommand (bothCommand 1) p rest readChannelStatusRule s

/-! ### READ_CONFIG (R190) -/

/-- The contents of a configuration section by its number (R190, R198); none where it names no section. -/
def configSection (s : State) (n : Nat) : Option (List Byte) :=
  if n = 0 then some (slotBytes s.timebase.workingSlots)
  else if n = 1 then some (slotBytes s.timebase.restSlots)
  else if n = 2 then some (s.timebase.classes.toList.flatMap putClass)
  else if n = 3 then
    some (put1 s.timebase.restWeekdays.toNat ++ put1 s.timebase.defaultClass.val ++
      put1 (boolCode s.timebase.calendarEnable) ++ putRestDays s.timebase.restDays)
  else if n = 4 then some [setOf fun c => (s.channel c).enabled, s.activity.enable]
  else if n = 5 then
    some (put1 s.settings.concealMax ++ put1 s.settings.lossCount ++ put1 s.settings.bgShift ++
      put2 s.settings.bgMin ++ put2 s.settings.quietHold ++ put1 s.settings.eventHold ++ put1 s.settings.eventCap ++
      put1 s.settings.warnFraction)
  else if n = 6 then some (s.matrix.routes.toList.flatMap putRoute ++ put1 (boolCode s.matrix.locked))
  else none

/-- The rule of READ_CONFIG (R149, R190). -/
def readConfigRule (args : List Byte) (s : State) : Answer :=
  match configSection s (arg1 args 0) with
  | none => refuse s .range
  | some data => .complete s .ok data

/-- READ_CONFIG. -/
def execReadConfig (p : Port) (rest : List Byte) (s : State) : Host.Outcome State Fault Refusal :=
  portCommand (bothCommand 1) p rest readConfigRule s

end Sys2Proof.Machine
end

