-- ==== Sys2Proof/Decode.lean ====
section
/-! DEFINITION. Reading a command from bits. No row of spec/opcode_table.json gives bits, so no table word spells a
command; what the spec does spell is the transactions of the two ports, byte by byte (R172, R197, R198), which are read
and written here. -/

namespace Sys2Proof

/-- The command that a word of the opcode table spells: none, since no row of the table gives bits. -/
def decodeTableWord (_nbits _w : Nat) : Option Instr := none

/-- The command that a command code names (R198, "List of Command Codes"); none where it names no command. -/
def commandOf (code : Byte) : Option (Port → List Byte → Instr) :=
  match code.toNat with
  | 0x20 => some .setTime
  | 0x21 => some .setCalendarSlots
  | 0x22 => some .setClass
  | 0x23 => some .setDayRules
  | 0x24 => some .addRestDay
  | 0x25 => some .dropRestDay
  | 0x26 => some .channelOn
  | 0x27 => some .channelOff
  | 0x28 => some .setActivityLines
  | 0x29 => some .setBackground
  | 0x2A => some .setEvent
  | 0x2B => some .setGap
  | 0x2C => some .lockRouting
  | 0x2D => some .cut
  | 0x2E => some .restart
  | 0x2F => some .clearCounters
  | 0x30 => some .fetch
  | 0x31 => some .release
  | 0x40 => some .setWarnFraction
  | 0x41 => some .activityPulse
  | 0x42 => some .peek
  | 0x43 => some .advance
  | 0x60 => some .setRoute
  | 0x61 => some .setEdges
  | 0x62 => some .clearEdges
  | 0x63 => some .readEdges
  | 0x64 => some .setAttention
  | 0x65 => some .latch
  | 0x66 => some .readSnapshot
  | 0x67 => some .readDeviceStatus
  | 0x68 => some .readChannelStatus
  | 0x69 => some .readConfig
  | _ => none

/-- The code names a command (R173, check 1). -/
def namesCommand (code : Byte) : Bool := (commandOf code).isSome

/-- The step that the rise of chip-select brings after these whole bytes were clocked in (R172, R173). -/
def decodeTransaction (p : Port) (bytes : List Byte) : Instr :=
  match bytes with
  | [] => .ignoredTransaction p
  | code :: rest =>
    if code = 0 then .readResponse p rest
    else
      match commandOf code with
      | some command => command p rest
      | none => .unknownCommand p code rest

/-- The port and the bytes of the transaction that a step takes, for the steps that are transactions (R172, R197). -/
def transactionBytes : Instr → Option (Port × List Byte)
  | .ignoredTransaction p => some (p, [])
  | .readResponse p rest => some (p, 0x00 :: rest)
  | .unknownCommand p code rest => some (p, code :: rest)
  | .setTime p rest => some (p, 0x20 :: rest)
  | .setCalendarSlots p rest => some (p, 0x21 :: rest)
  | .setClass p rest => some (p, 0x22 :: rest)
  | .setDayRules p rest => some (p, 0x23 :: rest)
  | .addRestDay p rest => some (p, 0x24 :: rest)
  | .dropRestDay p rest => some (p, 0x25 :: rest)
  | .channelOn p rest => some (p, 0x26 :: rest)
  | .channelOff p rest => some (p, 0x27 :: rest)
  | .setActivityLines p rest => some (p, 0x28 :: rest)
  | .setBackground p rest => some (p, 0x29 :: rest)
  | .setEvent p rest => some (p, 0x2A :: rest)
  | .setGap p rest => some (p, 0x2B :: rest)
  | .lockRouting p rest => some (p, 0x2C :: rest)
  | .cut p rest => some (p, 0x2D :: rest)
  | .restart p rest => some (p, 0x2E :: rest)
  | .clearCounters p rest => some (p, 0x2F :: rest)
  | .fetch p rest => some (p, 0x30 :: rest)
  | .release p rest => some (p, 0x31 :: rest)
  | .setWarnFraction p rest => some (p, 0x40 :: rest)
  | .activityPulse p rest => some (p, 0x41 :: rest)
  | .peek p rest => some (p, 0x42 :: rest)
  | .advance p rest => some (p, 0x43 :: rest)
  | .setRoute p rest => some (p, 0x60 :: rest)
  | .setEdges p rest => some (p, 0x61 :: rest)
  | .clearEdges p rest => some (p, 0x62 :: rest)
  | .readEdges p rest => some (p, 0x63 :: rest)
  | .setAttention p rest => some (p, 0x64 :: rest)
  | .latch p rest => some (p, 0x65 :: rest)
  | .readSnapshot p rest => some (p, 0x66 :: rest)
  | .readDeviceStatus p rest => some (p, 0x67 :: rest)
  | .readChannelStatus p rest => some (p, 0x68 :: rest)
  | .readConfig p rest => some (p, 0x69 :: rest)
  | .powerOn => none
  | .sliceClockStart => none
  | .nrstLow => none
  | .nrstRelease => none
  | .boundary _ => none
  | .dayRollover _ => none
  | .dayWrap _ => none
  | .frameReceived _ => none
  | .linkAcquired _ _ => none
  | .headLoss _ _ => none
  | .eventHoldClose _ _ => none
  | .eventLongClose _ _ => none
  | .episodePauseClose _ => none
  | .actRise _ _ => none
  | .actFall _ => none
  | .endOfSync => none
  | .chipSelectFall _ => none

end Sys2Proof
end

