-- ==== Sys2Proof/Machine/Steps.lean ====
section
/-! DEFINITION. The steps that come from the slice clock, the head line, the activity lines and the chip-selects: the
boundary and the events that a boundary brings (R1, R3, R4, R34, R35, R113, R122, R123), received frames (R22, R25),
edges (R95, R100), and the transactions that carry no known command (R172, R173, R176). -/

namespace Sys2Proof.Machine

/-- BOUNDARY (R1). -/
def execBoundary (heard : List Byte) (s : State) : Host.Outcome State Fault Refusal := .next (reachBoundary heard s)

/-- The boundary ahead is a day rollover (R3). -/
def dayRolls (s : State) : Bool := s.timebase.rollsOver s.pendingTimed

/-- DAY_ROLLOVER (R3): the boundary at which the slice-of-day passes 691 199. -/
def execDayRollover (heard : List Byte) (s : State) : Host.Outcome State Fault Refusal :=
  .next (reachBoundaryIf dayRolls heard s)

/-- The boundary ahead is the day wrap (R4). -/
def dayWraps (s : State) : Bool := s.timebase.wraps s.pendingTimed

/-- DAY_WRAP (R4): the boundary at which the day number passes 65535. -/
def execDayWrap (heard : List Byte) (s : State) : Host.Outcome State Fault Refusal :=
  .next (reachBoundaryIf dayWraps heard s)

/-- The deadline ahead takes the channel from SEARCH to LIVE (R34). -/
def acquires (c : Channel) (s : State) : Bool :=
  s.timebase.lastSlice.isSome && decide ((s.channel c).link = .search) &&
    decide ((deadlineLink s.settings.lossCount (s.channel c)).1.link = .live)

/-- LINK_ACQUIRED (R34): the boundary at whose deadline the channel's acquire count reaches 3. -/
def execLinkAcquired (c : Channel) (heard : List Byte) (s : State) : Host.Outcome State Fault Refusal :=
  .next (reachBoundaryIf (acquires c) heard s)

/-- The deadline ahead takes the channel from LIVE to LOST (R35). -/
def losesHead (c : Channel) (s : State) : Bool :=
  s.timebase.lastSlice.isSome && decide ((s.channel c).link = .live) &&
    decide ((deadlineLink s.settings.lossCount (s.channel c)).1.link = .lost)

/-- HEAD_LOSS (R35): the boundary at whose deadline the channel's miss count reaches LOSS_COUNT. -/
def execHeadLoss (c : Channel) (heard : List Byte) (s : State) : Host.Outcome State Fault Refusal :=
  .next (reachBoundaryIf (losesHead c) heard s)

/-- The account ahead closes the channel's event by HOLD (R122). -/
def holdCloses (c : Channel) (s : State) : Bool := decide ((deadline s c).eventClosed = some .hold)

/-- EVENT_HOLD_CLOSE (R122): the boundary at whose account the hold of the channel's event reaches 0. -/
def execEventHoldClose (c : Channel) (heard : List Byte) (s : State) : Host.Outcome State Fault Refusal :=
  .next (reachBoundaryIf (holdCloses c) heard s)

/-- The account ahead closes the channel's event by LONG (R123). -/
def longCloses (c : Channel) (s : State) : Bool := decide ((deadline s c).eventClosed = some .long)

/-- EVENT_LONG_CLOSE (R123): the boundary at whose account the age of the channel's event reaches 65 535. -/
def execEventLongClose (c : Channel) (heard : List Byte) (s : State) : Host.Outcome State Fault Refusal :=
  .next (reachBoundaryIf (longCloses c) heard s)

/-- The slice end ahead closes the episode by PAUSE (R113). -/
def pauseCloses (s : State) : Bool := s.activity.pauseCloses s.timebase.slice s.pendingTimed

/-- EPISODE_PAUSE_CLOSE (R113): the boundary at which the episode's pending count reaches 8. -/
def execEpisodePauseClose (heard : List Byte) (s : State) : Host.Outcome State Fault Refusal :=
  .next (reachBoundaryIf pauseCloses heard s)

/-- FRAME_RECEIVED (R25): the frame is ended and run through the acceptance checks. Nothing is received while the
driver is enabled (R22) or NRST is low (R40). R24 lets a REPORT and a boundary fall on one instant; where the boundary
is taken first, the REPORT is checked after the SYNC, so its row stands behind END_OF_SYNC in the queue (DEDUCED: log
entry 18). -/
def execFrameReceived (heard : List Byte) (s : State) : Host.Outcome State Fault Refusal :=
  .next (if s.nrstLow || s.headLink.driverOn then s else endFrame heard s)

/-- END_OF_SYNC (R22): the driver is disabled and the controller listens (log entries 18, 21). -/
def execEndOfSync (s : State) : Host.Outcome State Fault Refusal :=
  .next { s with headLink := { s.headLink with driverOn := false } }

/-! ### Activity lines -/

/-- The line's level with a rise, and whether its high is unseen. -/
def Activity.lineUp (a : Activity) (l : Line) (unseen : Bool) : Activity :=
  { a with level := withMember a.level l true, unseen := withMember a.unseen l unseen }

/-- The high-seen mark of the slice in progress (R95); before the first boundary there is none to mark. -/
def Activity.mark (a : Activity) (l : Line) (inSlice : Bool) : Activity :=
  if inSlice then { a with highSeen := withMember a.highSeen l true } else a

/-- A rise that is seen: the mark is set and the edge is taken (R95, R100). -/
def seenRise (l : Line) (s : State) : State :=
  State.takeRise
    { s with activity := (s.activity.lineUp l false).mark l s.timebase.slice.isSome } l

/-- A line rises while NRST is high (R95, R100): a high of 1 ms or more is seen, a shorter one if the device's choice
for this high says so (log entry 1). -/
def rise (l : Line) (short : Bool) (s : State) : State :=
  if short then
    let counted := { s with shortHighs := s.shortHighs + 1 }
    if Config.shortHighSeen s.shortHighs then seenRise l counted
    else { counted with activity := s.activity.lineUp l true }
  else seenRise l s

/-- ACT_RISE (R100): while NRST is low only the pin's level changes; a rise of a line that is high cannot come
about (log entries 19, 21). -/
def execActRise (l : Line) (short : Bool) (s : State) : Host.Outcome State Fault Refusal :=
  .next
    (if member s.activity.level l then s
    else if s.nrstLow then { s with activity := s.activity.lineUp l false }
    else rise l short s)

/-- The line's level with a fall. -/
def Activity.lineDown (a : Activity) (l : Line) : Activity :=
  { a with level := withMember a.level l false, unseen := withMember a.unseen l false }

/-- ACT_FALL (R100): a high that was not seen has no fall that is taken (R95; log entry 19). -/
def execActFall (l : Line) (s : State) : Host.Outcome State Fault Refusal :=
  .next
    (if member s.activity.level l = false then s
    else
      let down := { s with activity := s.activity.lineDown l }
      if s.nrstLow || member s.activity.unseen l then down else down.takeFall l)

/-! ### Transactions without a known command -/

/-- IGNORED_TRANSACTION (R172): the transaction ends and changes nothing else. -/
def execIgnoredTransaction (p : Port) (s : State) : Host.Outcome State Fault Refusal := .next (s.dropTransaction p)

/-- UNKNOWN_COMMAND (R173, check 1): answered UNKNOWN, or discarded in BUSY like any command (R175). A first byte that
is 00h or names a command makes another row's transaction: the term is ill-formed and is refused (log entry 9). -/
def execUnknownCommand (p : Port) (code : Byte) (_rest : List Byte) (s : State) : Host.Outcome State Fault Refusal :=
  if code = 0 ∨ namesCommand code = true then .refused .codeNamesACommand
  else .next (takeCommand p (fun s => refuse s .unknown) s)

/-- READ_RESPONSE (R176). -/
def execReadResponse (p : Port) (rest : List Byte) (s : State) : Host.Outcome State Fault Refusal :=
  .next (readResponse p rest s)

/-- CHIP_SELECT_FALL (R172). -/
def execChipSelectFall (p : Port) (s : State) : Host.Outcome State Fault Refusal := .next (chipSelectFall p s)

end Sys2Proof.Machine
end

