-- ==== Sys2Proof/Machine/Dispatch.lean ====
section
/-! DEFINITION. One arm per command: each command's meaning, called by its full name. -/

namespace Sys2Proof.Machine

/-- The effect of a command on everything but the queue. -/
def exec (i : Instr) (s : State) : Host.Outcome State Fault Refusal :=
    match i with
    | .powerOn => Sys2Proof.Machine.execPowerOn s
    | .sliceClockStart => Sys2Proof.Machine.execSliceClockStart s
    | .nrstLow => Sys2Proof.Machine.execNrstLow s
    | .nrstRelease => Sys2Proof.Machine.execNrstRelease s
    | .boundary heard => Sys2Proof.Machine.execBoundary heard s
    | .dayRollover heard => Sys2Proof.Machine.execDayRollover heard s
    | .dayWrap heard => Sys2Proof.Machine.execDayWrap heard s
    | .frameReceived heard => Sys2Proof.Machine.execFrameReceived heard s
    | .linkAcquired c heard => Sys2Proof.Machine.execLinkAcquired c heard s
    | .headLoss c heard => Sys2Proof.Machine.execHeadLoss c heard s
    | .eventHoldClose c heard => Sys2Proof.Machine.execEventHoldClose c heard s
    | .eventLongClose c heard => Sys2Proof.Machine.execEventLongClose c heard s
    | .episodePauseClose heard => Sys2Proof.Machine.execEpisodePauseClose heard s
    | .actRise l short => Sys2Proof.Machine.execActRise l short s
    | .actFall l => Sys2Proof.Machine.execActFall l s
    | .ignoredTransaction p => Sys2Proof.Machine.execIgnoredTransaction p s
    | .unknownCommand p code rest => Sys2Proof.Machine.execUnknownCommand p code rest s
    | .readResponse p rest => Sys2Proof.Machine.execReadResponse p rest s
    | .setTime p rest => Sys2Proof.Machine.execSetTime p rest s
    | .setCalendarSlots p rest => Sys2Proof.Machine.execSetCalendarSlots p rest s
    | .setClass p rest => Sys2Proof.Machine.execSetClass p rest s
    | .setDayRules p rest => Sys2Proof.Machine.execSetDayRules p rest s
    | .addRestDay p rest => Sys2Proof.Machine.execAddRestDay p rest s
    | .dropRestDay p rest => Sys2Proof.Machine.execDropRestDay p rest s
    | .channelOn p rest => Sys2Proof.Machine.execChannelOn p rest s
    | .channelOff p rest => Sys2Proof.Machine.execChannelOff p rest s
    | .clearCounters p rest => Sys2Proof.Machine.execClearCounters p rest s
    | .cut p rest => Sys2Proof.Machine.execCut p rest s
    | .setGap p rest => Sys2Proof.Machine.execSetGap p rest s
    | .setActivityLines p rest => Sys2Proof.Machine.execSetActivityLines p rest s
    | .setBackground p rest => Sys2Proof.Machine.execSetBackground p rest s
    | .setEvent p rest => Sys2Proof.Machine.execSetEvent p rest s
    | .lockRouting p rest => Sys2Proof.Machine.execLockRouting p rest s
    | .restart p rest => Sys2Proof.Machine.execRestart p rest s
    | .fetch p rest => Sys2Proof.Machine.execFetch p rest s
    | .release p rest => Sys2Proof.Machine.execRelease p rest s
    | .setWarnFraction p rest => Sys2Proof.Machine.execSetWarnFraction p rest s
    | .activityPulse p rest => Sys2Proof.Machine.execActivityPulse p rest s
    | .peek p rest => Sys2Proof.Machine.execPeek p rest s
    | .advance p rest => Sys2Proof.Machine.execAdvance p rest s
    | .setRoute p rest => Sys2Proof.Machine.execSetRoute p rest s
    | .setEdges p rest => Sys2Proof.Machine.execSetEdges p rest s
    | .clearEdges p rest => Sys2Proof.Machine.execClearEdges p rest s
    | .readEdges p rest => Sys2Proof.Machine.execReadEdges p rest s
    | .setAttention p rest => Sys2Proof.Machine.execSetAttention p rest s
    | .latch p rest => Sys2Proof.Machine.execLatch p rest s
    | .readSnapshot p rest => Sys2Proof.Machine.execReadSnapshot p rest s
    | .readDeviceStatus p rest => Sys2Proof.Machine.execReadDeviceStatus p rest s
    | .readChannelStatus p rest => Sys2Proof.Machine.execReadChannelStatus p rest s
    | .readConfig p rest => Sys2Proof.Machine.execReadConfig p rest s
    | .endOfSync => Sys2Proof.Machine.execEndOfSync s
    | .chipSelectFall p => Sys2Proof.Machine.execChipSelectFall p s

end Sys2Proof.Machine
end

