-- ==== Sys2Proof/WellFormed.lean ====
section
/-! DEFINITION. What makes a term of Instr a step of the table: its row's own condition on its operands. -/

namespace Sys2Proof

/-- A step is well-formed unless it says UNKNOWN_COMMAND of a first byte that is 00h, which makes a read-response
transaction (R172), or that names a command (R173). The other rows' operands are well-formed by their types: a frame of
any bytes is a command frame, which the frame checks answer. -/
def Instr.wellFormed : Instr → Bool
  | .unknownCommand _ code _ => code != 0 && !namesCommand code
  | _ => true

end Sys2Proof
end

