-- ==== Sys2Proof/Safety.lean ====
section
/-! DEFINITION. What the statements about the part are made of: a port that takes commands and the state that an answer
leaves, the privilege and length tables of R180 and R198, the records of forced closes, the rows of a byte layout, and
the invariants that every step keeps. -/

namespace Sys2Proof.Machine

/-! ### Taking a command -/

/-- The bytes of a command frame after the code: argument length and arguments (R197). -/
def framed (args : List Byte) : List Byte := BitVec.ofNat 8 args.length :: args

/-- The port takes a command transaction as a command now: NRST is high and has not fallen during the transaction
(R172, R183), and the port is IDLE or DONE (R174). -/
def State.takes (s : State) (p : Port) : Bool :=
  !s.ignores p && match (s.port p).command with
    | .busy _ => false
    | .idle => true
    | .done _ => true

/-- The state `t` with the transaction on port `p` of state `s` ended and answered at once: the state byte has been
clocked out, the port is DONE with the response, COLLIDED clear in it (R172, R174, R178). -/
def State.answered (s : State) (p : Port) (t : State) (status : Status) (data : List Byte) : State :=
  t.mapPort p fun q =>
    { q with
      transaction := none
      clockedOut := [s.firstByte p]
      command := .done ⟨status, false, data⟩ }

/-- The state with the transaction on port `p` ended and the port BUSY with a timed command (R174, R179). -/
def State.awaits (s : State) (p : Port) (t : Timed) : State :=
  s.mapPort p fun q =>
    { q with
      transaction := none
      clockedOut := [s.firstByte p]
      command := .busy t }

/-- A refusal, which changes nothing but the port's own transaction and command state (R178). -/
def State.refusedWith (s : State) (p : Port) (status : Status) : State := s.answered p s status []

/-- The other port. -/
def otherPort : Port → Port
  | .site => .authority
  | .authority => .site

/-! ### Privilege and argument lengths (R180, R198) -/

/-- The ports that may issue the command with a code, by the List of Commands (R180) and its code (R198): 20h to 31h
are the authority's, 40h to 43h the site's, 60h to 69h both ports'. -/
def permittedTo (p : Port) (code : Byte) : Bool :=
  match p with
  | .site => decide (0x40 ≤ code.toNat)
  | .authority => decide (code.toNat < 0x40 ∨ 0x60 ≤ code.toNat)

/-- The argument lengths of the List of Command Codes (R198), but for SET_CALENDAR_SLOTS, which accepts every length
from its fixed part upward (R173). -/
def acceptsLength (code : Byte) (n : Nat) : Bool :=
  if code.toNat = 0x21 then decide (3 ≤ n)
  else if code.toNat ∈ [0x2C, 0x2E, 0x2F, 0x30, 0x41, 0x42, 0x43, 0x63, 0x67] then n == 0
  else if code.toNat ∈ [0x26, 0x27, 0x28, 0x2D, 0x40, 0x62, 0x64, 0x65, 0x66, 0x68, 0x69] then n == 1
  else if code.toNat ∈ [0x24, 0x25, 0x61] then n == 2
  else if code.toNat ∈ [0x23, 0x60] then n == 3
  else if code.toNat ∈ [0x2A, 0x2B, 0x31] then n == 4
  else if code.toNat = 0x29 then n == 5
  else if code.toNat = 0x20 then n == 6
  else n == 9

/-- The frame's length is right: an argument length of 250 or below stands after the code, and as many argument bytes
after it (R173, check 2). -/
def frameFits : List Byte → Bool
  | [] => false
  | len :: args => decide (len.toNat ≤ 250) && args.length == len.toNat

/-! ### Frames, boundaries and batches -/

/-- A REPORT frame as a head sends it (R195, R196). -/
def reportFrame (address tag : Byte) (level peak : BitVec 16) (flags : Byte) : List Byte :=
  let body := [0x52#8, address, tag] ++ put2 level.toNat ++ put2 peak.toNat ++ [flags]
  body ++ put2 (crc body).toNat

/-- The slice result that the boundary ahead hands to the level engine for a channel, if it hands one on (R37): the
slice that ended last is not voided, and the channel is not OFF. `heard` are the characters of a frame that the
boundary ends. -/
def State.handedOn (s : State) (heard : List Byte) (c : Channel) : Option SliceResult :=
  match s.timebase.lastSlice with
  | none => none
  | some ended =>
    if ended.voided then none
    else (deadlineLink s.settings.lossCount ((frameAtBoundary heard s).channel c)).2

/-- The open interval that takes in a slice of the context `x`: the channel's own, unless the close check closes it or
there is none, in which case it is one opened with that slice (R56, R59). -/
def intervalFor (x : SliceContext) : Option Interval → Interval
  | none => openInterval x
  | some iv => if iv.elapsed = iv.planned ∨ x.tag.cls ≠ iv.cls then openInterval x else iv

/-- The place of an offer in the List of Batch Order (R153): a channel's interval that closed by LENGTH or CLASS_CHANGE
stands before one that closed by a forced cause. -/
def batchPlace (o : Offer) : Nat :=
  let c := (o.channel.map Fin.val).getD 0
  match o.body with
  | .gap _ => 4 * c
  | .event _ => 4 * c + 1
  | .interval r => if r.cause = .length ∨ r.cause = .classChange then 4 * c + 2 else 4 * c + 3
  | .prohibited _ => 32
  | .config _ _ => 33
  | .loss _ => 34

/-- The offers stand in the order of the List of Batch Order, and no place of it is taken twice: of a channel at most one
GAP, one EVENT, one INTERVAL of a natural close and one of a forced close, one PROHIBITED and one CONFIG record (R153). -/
def BatchOrdered (offers : List Offer) : Prop := offers.Pairwise fun a b => batchPlace a < batchPlace b

/-- The state with nothing pending on the authority port. A boundary reached from it makes the same accounts and no
forced close, so it shows what the forced closes of a timed command find (R65, R90, R125). -/
def State.withoutTimed (s : State) : State :=
  { s with authority := { s.authority with command := .idle } }

/-- The GAP record of a run that a forced end finds: none below a length of 8 (R90, R91). -/
def forcedGap (c : Channel) (gap : Option GapRun) (cause : Cause) : List Offer :=
  match gap with
  | none => []
  | some g =>
    if g.length < 8 then []
    else [⟨some c, g.start, .gap ⟨g.start, g.last, g.length, cause, none, g.before.isSome, g.homeOpenTime⟩⟩]

/-- The EVENT record of an open event that a forced close finds: none where it is suppressed (R125 to R127). -/
def forcedEvent (c : Channel) (event : Option Event) (cause : Cause) : List Offer :=
  match event with
  | none => []
  | some e =>
    if e.suppressed then []
    else
      [⟨some c, e.start, .event ⟨e.start, e.lastTrigger, e.duration, e.homeClass, e.homeOpenTime, e.lmaxThreshold,
        e.peakThreshold, e.lmax, e.peak, lconv (e.sum / 8), cause⟩⟩]

/-- The INTERVAL record of an open interval that a forced close finds (R65, R77). -/
def forcedInterval (c : Channel) (interval : Option Interval) (cause : Cause) : List Offer :=
  match interval with
  | none => []
  | some iv => [⟨some c, iv.openTime, .interval (intervalRecord iv cause)⟩]

/-- The records that the forced ends of a time step, CHANNEL_OFF or RESTART offer for a channel that they find as `ch`
(R65, R90, R125). -/
def forcedRecords (c : Channel) (ch : ChannelState) (cause : Cause) : List Offer :=
  forcedGap c ch.gap cause ++ forcedEvent c ch.event cause ++ forcedInterval c ch.interval cause

/-- The PROHIBITED record of an open episode that a forced close finds (R114, R115). -/
def forcedEpisode (episode : Option Episode) (cause : Cause) : List Offer :=
  match episode with
  | none => []
  | some e => [⟨none, e.start, .prohibited ⟨e.start, e.last, e.span, e.count, e.lines, e.cls, cause⟩⟩]

/-! ### Byte layouts (R194, R199) -/

/-- The number that stands in `width` bytes from place `offset` on, high byte first (R194). -/
def fieldAt (bytes : List Byte) (offset width : Nat) : Nat :=
  ((bytes.drop offset).take width).foldl (fun n b => 256 * n + b.toNat) 0

/-- A row of a layout: its place, its width in bytes, and the value that stands there. -/
structure Field where
  offset : Nat
  width : Nat
  value : Nat

/-- Every row of a layout stands in the bytes; a value is stored in as many low-order bits as its width holds. -/
def Laid (bytes : List Byte) (rows : List Field) : Prop :=
  ∀ row ∈ rows, fieldAt bytes row.offset row.width = row.value % 256 ^ row.width

/-- A row of a value that may be absent: all ones (R194). -/
def optionalField (offset width : Nat) (value : Option Nat) : Field := ⟨offset, width, value.getD (256 ^ width - 1)⟩

/-- The rows of a time: the day, then the slice-of-day (R194). -/
def timeFields (offset : Nat) (t : Time) : List Field := [⟨offset, 2, t.day.toNat⟩, ⟨offset + 2, 3, t.sod.val⟩]

/-- The rows of a row of 2-byte values. -/
def pairFields (offset : Nat) : List (Option Nat) → List Field
  | [] => []
  | v :: vs => optionalField offset 2 v :: pairFields (offset + 2) vs

/-- A LOSS body after one more loss, of a record of kind code `kind`, at site time `time` (R156). -/
def LossBody.raised (b : LossBody) (time : Time) (kind : Nat) : LossBody where
  total := min 65535 (b.total + 1)
  intervals := if kind = 1 then min 65535 (b.intervals + 1) else b.intervals
  events := if kind = 2 then min 65535 (b.events + 1) else b.events
  gaps := if kind = 3 then min 65535 (b.gaps + 1) else b.gaps
  prohibiteds := if kind = 4 then min 65535 (b.prohibiteds + 1) else b.prohibiteds
  configs := if kind = 5 then min 65535 (b.configs + 1) else b.configs
  first := b.first
  last := time

/-! ### The invariants -/

/-- The rest-day list (R12). -/
def Timebase.RestDaysOk (tb : Timebase) : Prop :=
  tb.restDays.Pairwise (· < ·) ∧ tb.restDays.length ≤ 16 ∧ ∀ d ∈ tb.restDays, tb.time.day ≤ d

/-- A stored class lies in the ranges of the List of Class Parameters (R16). -/
def ClassParams.InRange (k : ClassParams) : Prop :=
  (200 ≤ k.limit ∧ k.limit ≤ 1400) ∧ (200 ≤ k.lmax ∧ k.lmax ≤ 1400) ∧ (400 ≤ k.peak ∧ k.peak ≤ 1500)

/-- The device settings lie in their ranges (R35, R47, R92, R108, R109, R116, R129, R136). -/
def Settings.InRange (st : Settings) : Prop :=
  (st.concealMax ≤ 32 ∧ st.concealMax < st.lossCount) ∧ (8 ≤ st.lossCount ∧ st.lossCount ≤ 255) ∧
    (4 ≤ st.bgShift ∧ st.bgShift ≤ 12) ∧ (8 ≤ st.bgMin ∧ st.bgMin ≤ 65535) ∧ st.quietHold ≤ 65535 ∧
    (1 ≤ st.eventHold ∧ st.eventHold ≤ 255) ∧ (1 ≤ st.eventCap ∧ st.eventCap ≤ 255) ∧ st.warnFraction ≤ 255

/-- Class table, settings and quiet timer lie in their ranges (R16, R103, and Settings.InRange). -/
def State.SettingsOk (s : State) : Prop :=
  (∀ i : Fin 12, (s.timebase.classes.get i).InRange) ∧ s.settings.InRange ∧ s.activity.quiet ≤ 65535

/-- Acquire count, miss count and link counters of a channel lie in their ranges (R30, R33). -/
def ChannelState.LinkOk (ch : ChannelState) : Prop :=
  ch.acquire ≤ 2 ∧ ch.miss ≤ 254 ∧ ch.late ≤ 65535 ∧ ch.dup ≤ 65535

/-- LOSS_COUNT is in range, and so are the device counters and every channel's link (R30, R33, R35). -/
def State.LinksOk (s : State) : Prop :=
  s.settings.lossCount ≤ 255 ∧ s.headLink.crc ≤ 65535 ∧ s.headLink.stray ≤ 65535 ∧ ∀ c, (s.channel c).LinkOk

/-- The numbers of `n` records whose newest is numbered `next` − 1, oldest first (R151). -/
def consecutive (next : BitVec 32) (n : Nat) : List (BitVec 32) :=
  (List.range n).map fun i => next - BitVec.ofNat 32 (n - i)

/-- The log holds at most 255 final records, and behind them at most the open LOSS record; the numbers of all that it
holds run consecutively up to N − 1 (R151, R155). -/
def Log.Ok (log : Log) : Prop :=
  log.records.length ≤ 255 ∧ log.all.map Record.seq = consecutive log.next log.held

/-- The counts of an open interval (R55, R57): each slice in exactly one of four counts; at least one slice; never more
than planned; background attributed to no more slices than gave energy. -/
def Interval.CountsOk (iv : Interval) : Prop :=
  iv.measured + iv.concealed + iv.missing + iv.cal = iv.elapsed ∧ 1 ≤ iv.elapsed ∧ iv.elapsed ≤ iv.planned ∧
    iv.planned ≤ 28800 ∧ iv.nbg ≤ iv.nacc ∧ iv.activitySlices ≤ iv.elapsed

/-- What the level engine and the event detector hold for a channel fits together: counts of the open interval (R55);
a gap run whose home is open has all its slices counted missing there (R86); an open event has an open interval
(R125); an OFF channel holds nothing (R33, R54, R80, R106, R116). -/
def ChannelState.WorkOk (ch : ChannelState) : Prop :=
  (∀ iv, ch.interval = some iv → iv.CountsOk) ∧
    (∀ g, ch.gap = some g → 1 ≤ g.length ∧ g.length ≤ 4294967295 ∧
      (g.homeOpen = true → ∃ iv, ch.interval = some iv ∧ g.length ≤ iv.missing)) ∧
    (ch.event.isSome = true → ch.interval.isSome = true) ∧
    (ch.link = .off → ch.acquire = 0 ∧ ch.miss = 0 ∧ ch.held = none ∧ ch.interval = none ∧ ch.gap = none ∧
      ch.prev = none ∧ ch.event = none ∧ ch.background = ⟨none, 0⟩)

/-- Every channel's work fits together. -/
def State.WorkOk (s : State) : Prop := ∀ c, (s.channel c).WorkOk

/-- An energy of the scale (R45). -/
def inScale (e : Nat) : Prop := 10000 ≤ e ∧ e ≤ 10 ^ 16

/-- The energies of an open interval: no sum holds more than 10^16 for each slice that gave energy to it (R46). -/
def Interval.EnergyOk (iv : Interval) : Prop :=
  iv.sumTot ≤ iv.nacc * 10 ^ 16 ∧ iv.sumBg ≤ iv.nbg * 10 ^ 16

/-- The pending energy of an event, 0 where it is absent. -/
def Event.pendingEnergy (e : Event) : Nat := (e.pending.map Pending.energy).getD 0

/-- An open event: its age is below 65535, its hold has not run out, and its sums hold at most 10^16 for each slice of
its age (R46, R116, R122, R123). -/
def Event.Ok (e : Event) : Prop :=
  1 ≤ e.duration ∧ e.duration ≤ e.age ∧ e.age < 65535 ∧ 1 ≤ e.hold ∧ e.hold ≤ 255 ∧
    e.sum + e.pendingEnergy ≤ e.age * 10 ^ 16

/-- Every energy that a channel holds lies in its bounds (R45, R46, R47). -/
def ChannelState.EnergyOk (ch : ChannelState) : Prop :=
  (∀ iv, ch.interval = some iv → iv.EnergyOk) ∧ (∀ e, ch.event = some e → e.Ok) ∧
    (∀ e, ch.background.eb = some e → inScale e) ∧ ch.background.nq ≤ 65535 ∧
    (∀ e, ch.prev = some (.level e) → inScale e) ∧ (∀ g e, ch.gap = some g → g.before = some e → inScale e)

/-- The work of every channel fits together, its energies lie in their bounds, and EVENT_HOLD is in range. -/
def State.EnergiesOk (s : State) : Prop :=
  (1 ≤ s.settings.eventHold ∧ s.settings.eventHold ≤ 255) ∧ s.WorkOk ∧ ∀ c, (s.channel c).EnergyOk

/-- The ports are in legal states: the site port is never BUSY, and COLLIDED is set only in BUSY (R175, R179). -/
def State.PortsOk (s : State) : Prop :=
  (∀ t, s.site.command ≠ .busy t) ∧ s.site.collided = false ∧
    (s.authority.collided = true → ∃ t, s.authority.command = .busy t)

/-- A response carries at most 250 bytes of data (R178). -/
def CommandState.Fits : CommandState → Prop
  | .done r => r.data.length ≤ 250
  | .idle => True
  | .busy _ => True

end Sys2Proof.Machine
end

