-- ==== Sys2Proof/Certificates/Slice0/Obligations.lean ====
section
/-! DEFINITION. The statements about the part, for the provers: the block's step, the ports and their transactions, every
command, the events of the pins and of the head line, the work of a boundary, the arithmetic, and the invariants. -/

section
open Sys2Proof Sys2Proof.Machine

/-! ### The block's step -/

/-- A step takes the command at the front of the queue and runs it with the queue's rest; on an empty queue the block
idles (the queue and the idling are the model's: log entry 5). -/
def Obligations.StepRunsTheFrontCommand : Prop :=
  (∀ (c : Instr) (s : State), step { s with pending := c :: s.pending } = exec c s) ∧
    ∀ s : State, s.pending = [] → step s = .next s

/-- Every well-formed command has a next state and leaves the queue alone; an ill-formed one, an UNKNOWN_COMMAND whose
code names a command or is 00h, is refused (log entry 9). -/
def Obligations.EveryWellFormedCommandRuns : Prop :=
  ∀ (c : Instr) (s : State),
    (c.wellFormed = true → ∃ t, exec c s = .next t ∧ t.pending = s.pending) ∧
      (c.wellFormed = false → exec c s = .refused .codeNamesACommand)

/-! ### Transactions and ports (chapter 10) -/

/-- Reading the bytes of a transaction gives back the step they were written from, and every train of bytes is the
transaction of exactly one well-formed step (R172, R173, R198). -/
def Obligations.TransactionsReadBack : Prop :=
  (∀ (i : Instr) (p : Port) (bytes : List Byte),
    i.wellFormed = true → transactionBytes i = some (p, bytes) → decodeTransaction p bytes = i) ∧
    ∀ (p : Port) (bytes : List Byte),
      (decodeTransaction p bytes).wellFormed = true ∧ transactionBytes (decodeTransaction p bytes) = some (p, bytes)

/-- A transaction with no whole byte, one that ends while NRST is low, and one during which NRST fell, change nothing
but that the transaction is over (R172, R183). -/
def Obligations.IgnoredTransactionsChangeNothing : Prop :=
  ∀ (i : Instr) (p : Port) (bytes : List Byte) (s : State),
    i.wellFormed = true → transactionBytes i = some (p, bytes) →
      (bytes = [] ∨ s.nrstLow = true ∨ ∃ x, (s.port p).transaction = some x ∧ x.spoiled = true) →
        exec i s = .next (s.mapPort p fun q => { q with transaction := none })

/-- A command transaction taken in BUSY is discarded unchecked, whatever its code, and sets COLLIDED (R175). -/
def Obligations.BusyPortDiscardsEveryCommand : Prop :=
  ∀ (i : Instr) (p : Port) (code : Byte) (rest : List Byte) (s : State) (waiting : Timed),
    i.wellFormed = true → transactionBytes i = some (p, code :: rest) → code ≠ 0 → s.ignores p = false →
      (s.port p).command = .busy waiting →
        exec i s =
          .next (s.mapPort p fun q =>
            { q with
              transaction := none
              clockedOut := [s.firstByte p]
              collided := true })

/-- The frame checks, in their order (R173), with the privileges of R180 and the argument lengths of R198. -/
def Obligations.FrameChecksStandInOrder : Prop :=
  ∀ (p : Port) (code : Byte) (rest : List Byte) (s : State), code ≠ 0 → s.takes p = true →
    (namesCommand code = false →
      exec (decodeTransaction p (code :: rest)) s = .next (s.refusedWith p .unknown)) ∧
    (namesCommand code = true → frameFits rest = false →
      exec (decodeTransaction p (code :: rest)) s = .next (s.refusedWith p .format)) ∧
    (namesCommand code = true → frameFits rest = true → permittedTo p code = false →
      exec (decodeTransaction p (code :: rest)) s = .next (s.refusedWith p .privilege)) ∧
    (namesCommand code = true → frameFits rest = true → permittedTo p code = true →
      acceptsLength code (rest.length - 1) = false →
        exec (decodeTransaction p (code :: rest)) s = .next (s.refusedWith p .format))

/-- A read-response transaction returns the held response and takes DONE to IDLE; in IDLE and in BUSY it returns
NOTHING and leaves the port's state as it stands (R176, R197). A response is clocked out as far as the transaction's
bytes reach (DEDUCED: log entry 13), and bits 1 to 7 of its flags byte are 0 (DESIGN CHOICE: log entry 26). -/
def Obligations.ReadResponseReturnsTheHeldResponse : Prop :=
  ∀ (p : Port) (rest : List Byte) (s : State), s.ignores p = false →
    (∀ r, (s.port p).command = .done r →
      exec (.readResponse p rest) s =
        .next (s.mapPort p fun q =>
          { q with
            transaction := none
            clockedOut :=
              (s.firstByte p :: (put1 r.status.code ++ put1 (boolCode r.collided) ++ put1 r.data.length ++ r.data)).take
                (1 + rest.length)
            command := .idle })) ∧
    ((∀ r, (s.port p).command ≠ .done r) →
      exec (.readResponse p rest) s =
        .next (s.mapPort p fun q =>
          { q with
            transaction := none
            clockedOut := [s.firstByte p, 0x0A#8, 0x00#8, 0x00#8].take (1 + rest.length) }))

/-- The fall of chip-select begins a transaction and fixes its state byte: command state in bits 0 and 1, ATTN in bit
7, the others 0 (R172, R197). That byte is the first the transaction clocks out; where no fall was given, the byte is the
one of the taking (DESIGN CHOICE: log entry 6), and a second fall within a transaction, which cannot come about, changes
nothing (DEDUCED: log entry 21). READY is high exactly in DONE, and both lines are low while NRST is (R177, R183). -/
def Obligations.ChipSelectFallFixesTheStateByte : Prop :=
  ∀ (p : Port) (s : State),
    ((s.port p).transaction = none →
      exec (.chipSelectFall p) s =
        .next (s.mapPort p fun q => { q with transaction := some ⟨s.stateByte p, false⟩ }) ∧
      s.firstByte p = s.stateByte p) ∧
    (∀ x, (s.port p).transaction = some x →
      exec (.chipSelectFall p) s = .next s ∧ s.firstByte p = x.stateByte) ∧
    (∀ t, (s.port p).transaction = none → exec (.chipSelectFall p) s = .next t → t.firstByte p = s.stateByte p) ∧
    ((s.stateByte p).extractLsb' 0 2 =
      match (s.port p).command with
      | .idle => 0#2
      | .busy _ => 1#2
      | .done _ => 2#2) ∧
    (s.stateByte p).extractLsb' 2 5 = 0#5 ∧ (s.stateByte p).getLsbD 7 = s.attn p ∧
    (s.ready p = true ↔ s.nrstLow = false ∧ ∃ r, (s.port p).command = .done r) ∧
    (s.nrstLow = true → s.attn p = false)

/-- ATTN is high exactly while a condition of the port's mask holds, each condition by its own test (R192, R198), and
SET_ATTENTION (R191) stores the mask and returns it with the present conditions; a set that names a condition outside
the port's list is refused RANGE. -/
def Obligations.AttentionFollowsTheMask : Prop :=
  (∀ (p : Port) (s : State) (mask : Byte), s.takes p = true →
    (mask.toNat < 64 →
      exec (.setAttention p (framed [mask])) s =
        .next (s.answered p (s.mapPort p fun q => { q with attention := mask }) .ok [mask, s.conditions p])) ∧
    (64 ≤ mask.toNat → exec (.setAttention p (framed [mask])) s = .next (s.refusedWith p .range))) ∧
  ∀ s : State, s.nrstLow = false →
    (s.attn .authority = true ↔
      (s.authority.attention.getLsbD 0 = true ∧ s.log.all ≠ []) ∨
      (s.authority.attention.getLsbD 1 = true ∧ s.log.openLoss ≠ none) ∨
      (s.authority.attention.getLsbD 2 = true ∧ ∃ c, (s.channel c).link = .lost) ∨
      (s.authority.attention.getLsbD 3 = true ∧ s.activity.episode ≠ none) ∨
      (s.authority.attention.getLsbD 4 = true ∧ s.authority.edges ≠ 0) ∨
      (s.authority.attention.getLsbD 5 = true ∧ ∃ c, (s.channel c).allowance = .exhausted)) ∧
    (s.attn .site = true ↔
      (s.site.attention.getLsbD 0 = true ∧ 0 < s.log.lag) ∨
      (s.site.attention.getLsbD 1 = true ∧ ∃ c, (s.channel c).allowance ≠ .clear) ∨
      (s.site.attention.getLsbD 2 = true ∧ ∃ c, (s.channel c).allowance = .exhausted) ∨
      (s.site.attention.getLsbD 3 = true ∧ s.site.edges ≠ 0) ∨
      (s.site.attention.getLsbD 4 = true ∧ ∃ c, (s.channel c).event ≠ none) ∨
      (s.site.attention.getLsbD 5 = true ∧ ∃ c, (s.channel c).link = .lost))

/-- Neither master can disturb the other's port: a transaction on one port, and the fall of its chip-select, leave
everything of the other port as it stands. -/
def Obligations.PortsDoNotReachEachOther : Prop :=
  ∀ (i : Instr) (p : Port) (s t : State),
    (i = .chipSelectFall p ∨ ∃ bytes, transactionBytes i = some (p, bytes)) → exec i s = .next t →
      t.port (otherPort p) = s.port (otherPort p)

/-- The site port is never BUSY, COLLIDED is set only in BUSY, and no response carries more than 250 bytes: every step
keeps it so (R175, R178, R179). -/
def Obligations.PortStatesStayLegal : Prop :=
  ∀ s t : State, s.PortsOk → s.site.command.Fits → s.authority.command.Fits → step s = .next t →
    t.PortsOk ∧ t.site.command.Fits ∧ t.authority.command.Fits

/-! ### Timed commands at their taking -/

/-- SET_TIME (R19), CUT (R66), RESTART (R182), CHANNEL_ON (R38) and CHANNEL_OFF (R39), taken by the authority port: an
accepted timed command leaves the port BUSY with it and changes nothing else; an argument out of range is refused RANGE;
a channel switch that would change nothing is answered at once with the channel and its link state (these data are
DEDUCED: log entry 15). -/
def Obligations.TimedCommandsWaitForTheBoundary : Prop :=
  ∀ s : State, s.takes .authority = true →
    (∀ (day : BitVec 16) (sod : Fin 691200) (weekday : Fin 7),
      exec (.setTime .authority (framed (put2 day.toNat ++ put3 sod.val ++ put1 weekday.val))) s =
        .next (s.awaits .authority (.setTime ⟨day, sod⟩ weekday))) ∧
    (∀ (day : BitVec 16) (sod weekday : Nat), sod < 16777216 → weekday < 256 → 691200 ≤ sod ∨ 7 ≤ weekday →
      exec (.setTime .authority (framed (put2 day.toNat ++ put3 sod ++ put1 weekday))) s =
        .next (s.refusedWith .authority .range)) ∧
    (∀ mask : Byte, mask ≠ 0 →
      exec (.cut .authority (framed [mask])) s = .next (s.awaits .authority (.cut mask))) ∧
    exec (.cut .authority (framed [0#8])) s = .next (s.refusedWith .authority .range) ∧
    exec (.restart .authority (framed [])) s = .next (s.awaits .authority .restart) ∧
    (∀ c : Channel,
      ((s.channel c).link = .off →
        exec (.channelOn .authority (framed (put1 c.val))) s = .next (s.awaits .authority (.channelOn c)) ∧
        exec (.channelOff .authority (framed (put1 c.val))) s =
          .next (s.answered .authority s .ok (put1 c.val ++ put1 0))) ∧
      ((s.channel c).link ≠ .off →
        exec (.channelOff .authority (framed (put1 c.val))) s = .next (s.awaits .authority (.channelOff c)) ∧
        exec (.channelOn .authority (framed (put1 c.val))) s =
          .next (s.answered .authority s .ok (put1 c.val ++ put1 (s.channel c).link.code)))) ∧
    ∀ b : Byte, 8 ≤ b.toNat →
      exec (.channelOn .authority (framed [b])) s = .next (s.refusedWith .authority .range) ∧
      exec (.channelOff .authority (framed [b])) s = .next (s.refusedWith .authority .range)

/-! ### The authority's settings -/

/-- SET_CALENDAR_SLOTS (R10): the slots in range take the low four bits of their code bytes, every other slot keeps its
code, and the CONFIG record carries the first 60 codes and the CRC of the whole profile; refused FORMAT where the length
does not match the count, and else RANGE where an argument is out of range (that order is DEDUCED: log entry 16), and
then nothing is written. -/
def Obligations.SetCalendarSlotsWritesItsSlots : Prop :=
  ∀ (s : State) (profile first count : Byte) (codes : List Byte), s.takes .authority = true → codes.length ≤ 247 →
    (codes.length ≠ count.toNat →
      exec (.setCalendarSlots .authority (framed ([profile, first, count] ++ codes))) s =
        .next (s.refusedWith .authority .format)) ∧
    (codes.length = count.toNat →
      (2 ≤ profile.toNat ∨ 95 < first.toNat ∨ count = 0 ∨ 96 < count.toNat ∨ 96 < first.toNat + count.toNat ∨
          ∃ b ∈ codes, 12 ≤ b.toNat % 16) →
        exec (.setCalendarSlots .authority (framed ([profile, first, count] ++ codes))) s =
          .next (s.refusedWith .authority .range)) ∧
    ∀ prof : Profile, codes.length = count.toNat → profile.toNat = prof.code → first.toNat ≤ 95 → count ≠ 0 →
      first.toNat + count.toNat ≤ 96 → (∀ b ∈ codes, b.toNat % 16 < 12) →
        ∃ (v : Vector ClassNo 96) (written : List ClassNo),
          (∀ i : Fin 96, (v.get i).val =
            if first.toNat ≤ i.val ∧ i.val < first.toNat + count.toNat then
              (codes.getD (i.val - first.toNat) 0).toNat % 16
            else ((s.timebase.slots prof).get i).val) ∧
          written.map Fin.val = (codes.take 60).map (fun b => b.toNat % 16) ∧
          exec (.setCalendarSlots .authority (framed ([profile, first, count] ++ codes))) s =
            .next (s.answered .authority
              (State.offerConfig { s with timebase := s.timebase.withSlots prof v } .authority
                (.calendar prof first.toNat count.toNat written
                  (crc (v.toList.map fun k => BitVec.ofNat 8 k.val))))
              .ok [profile, first, count])

/-- SET_CLASS (R17): the five parameters of one class are stored, the numeric ones clamped into their ranges; refused
RANGE for a class above 11, a LENGTH that is none of the five, or a PLANT_PERMITTED that is neither yes nor no. -/
def Obligations.SetClassStoresClampedParameters : Prop :=
  ∀ (s : State) (n minutes plant : Byte) (limit lmax peak : BitVec 16), s.takes .authority = true →
    (∀ (k : ClassNo) (length : IntervalLength) (permitted : Bool),
      n.toNat = k.val → minutes.toNat = length.minutes → plant.toNat = boolCode permitted →
        exec (.setClass .authority
            (framed ([n] ++ put2 limit.toNat ++ [minutes] ++ put2 lmax.toNat ++ put2 peak.toNat ++ [plant]))) s =
          let stored : ClassParams :=
            ⟨max 200 (min 1400 limit.toNat), length, max 200 (min 1400 lmax.toNat), max 400 (min 1500 peak.toNat),
              permitted⟩
          .next (s.answered .authority
            (State.offerConfig
              { s with timebase := { s.timebase with classes := s.timebase.classes.set k.val stored k.isLt } }
              .authority (.cls k stored))
            .ok (put2 stored.limit ++ [minutes] ++ put2 stored.lmax ++ put2 stored.peak ++ [plant]))) ∧
    (12 ≤ n.toNat ∨ minutes.toNat ∉ [5, 10, 15, 30, 60] ∨ 2 ≤ plant.toNat →
      exec (.setClass .authority
          (framed ([n] ++ put2 limit.toNat ++ [minutes] ++ put2 lmax.toNat ++ put2 peak.toNat ++ [plant]))) s =
        .next (s.refusedWith .authority .range))

/-- SET_DAY_RULES (R11): REST_WEEKDAYS, DEFAULT_CLASS (the low four bits of its byte) and CALENDAR_ENABLE are set
together; refused RANGE for a weekday above 6, a class of 12 to 15, or an enable that is neither off nor on. -/
def Obligations.SetDayRulesSetsAllThree : Prop :=
  ∀ (s : State) (mask fallback enable : Byte), s.takes .authority = true →
    (∀ (k : ClassNo) (on : Bool),
      mask.toNat < 128 → fallback.toNat % 16 = k.val → enable.toNat = boolCode on →
        exec (.setDayRules .authority (framed [mask, fallback, enable])) s =
          .next (s.answered .authority
            (State.offerConfig
              { s with timebase :=
                { s.timebase with
                  restWeekdays := mask.setWidth 7
                  defaultClass := k
                  calendarEnable := on } }
              .authority (.dayRules (mask.setWidth 7) k on))
            .ok [mask, BitVec.ofNat 8 k.val, enable])) ∧
    (128 ≤ mask.toNat ∨ 12 ≤ fallback.toNat % 16 ∨ 2 ≤ enable.toNat →
      exec (.setDayRules .authority (framed [mask, fallback, enable])) s = .next (s.refusedWith .authority .range))

/-- ADD_REST_DAY (R13), its checks in order, and DROP_REST_DAY (R14): the list is returned as it then stands and a
CONFIG record is offered. -/
def Obligations.RestDayCommandsKeepTheOrder : Prop :=
  ∀ (s : State) (day : BitVec 16), s.takes .authority = true →
    (s.timebase.timeValid = false ∨ day < s.timebase.time.day →
      exec (.addRestDay .authority (framed (put2 day.toNat))) s = .next (s.refusedWith .authority .range)) ∧
    (s.timebase.timeValid = true → s.timebase.time.day ≤ day → day ∈ s.timebase.restDays →
      exec (.addRestDay .authority (framed (put2 day.toNat))) s = .next (s.refusedWith .authority .duplicate)) ∧
    (s.timebase.timeValid = true → s.timebase.time.day ≤ day → day ∉ s.timebase.restDays →
      16 ≤ s.timebase.restDays.length →
        exec (.addRestDay .authority (framed (put2 day.toNat))) s = .next (s.refusedWith .authority .full)) ∧
    (s.timebase.timeValid = true → s.timebase.time.day ≤ day → day ∉ s.timebase.restDays →
      s.timebase.restDays.length < 16 →
        ∃ list : List (BitVec 16),
          list.Perm (day :: s.timebase.restDays) ∧
          (s.timebase.restDays.Pairwise (· < ·) → list.Pairwise (· < ·)) ∧
          exec (.addRestDay .authority (framed (put2 day.toNat))) s =
            .next (s.answered .authority
              (State.offerConfig { s with timebase := { s.timebase with restDays := list } } .authority
                (.restDayAdd day list))
              .ok (putRestDays list))) ∧
    (day ∉ s.timebase.restDays →
      exec (.dropRestDay .authority (framed (put2 day.toNat))) s = .next (s.refusedWith .authority .absent)) ∧
    (day ∈ s.timebase.restDays →
      exec (.dropRestDay .authority (framed (put2 day.toNat))) s =
        let list := s.timebase.restDays.filter (fun d => d ≠ day)
        .next (s.answered .authority
          (State.offerConfig { s with timebase := { s.timebase with restDays := list } } .authority
            (.restDayDrop day list))
          .ok (putRestDays list)))

/-- CLEAR_COUNTERS (R31): CRC, STRAY and every LATE and DUP become 0 and nothing else of the head link changes; the
CONFIG record carries the counts before, the channels' summed and saturated (R168); the response carries no data
(DEDUCED: log entry 15). -/
def Obligations.ClearCountersClearsOnlyCounters : Prop :=
  ∀ s : State, s.takes .authority = true →
    exec (.clearCounters .authority (framed [])) s =
      .next (s.answered .authority
        (State.offerConfig
          { s with
            headLink := { s.headLink with crc := 0, stray := 0 }
            channels := Oct.ofFn fun c => { s.channel c with late := 0, dup := 0 } }
          .authority
          (.countersClear s.headLink.crc s.headLink.stray
            (min 65535 ((List.finRange 8).map fun c => (s.channel c).late).sum)
            (min 65535 ((List.finRange 8).map fun c => (s.channel c).dup).sum)))
        .ok [])

/-- SET_GAP (R92): the four steps of the storing, with FFFFh for an absent argument. -/
def Obligations.SetGapKeepsConcealBelowLoss : Prop :=
  ∀ (s : State) (conceal loss : BitVec 16), s.takes .authority = true →
    (conceal = 0xFFFF#16 ∧ loss = 0xFFFF#16 →
      exec (.setGap .authority (framed (put2 conceal.toNat ++ put2 loss.toNat))) s =
        .next (s.refusedWith .authority .range)) ∧
    (conceal ≠ 0xFFFF#16 ∨ loss ≠ 0xFFFF#16 →
      exec (.setGap .authority (framed (put2 conceal.toNat ++ put2 loss.toNat))) s =
        let storedLoss := if loss = 0xFFFF#16 then s.settings.lossCount else max 8 (min 255 loss.toNat)
        let found := if conceal = 0xFFFF#16 then s.settings.concealMax else min 32 conceal.toNat
        let storedConceal := if storedLoss ≤ found then storedLoss - 1 else found
        .next (s.answered .authority
          (State.offerConfig
            { s with settings := { s.settings with concealMax := storedConceal, lossCount := storedLoss } }
            .authority (.gapSettings storedConceal storedLoss))
          .ok (put1 storedConceal ++ put1 storedLoss)))

/-- SET_ACTIVITY_LINES (R96), SET_BACKGROUND (R109) and SET_EVENT (R129): the settings are stored, clamped into their
ranges, returned as stored and offered in a CONFIG record; no estimator, event or timer changes. -/
def Obligations.DetectionSettingsAreStoredClamped : Prop :=
  ∀ s : State, s.takes .authority = true →
    (∀ mask : Byte,
      exec (.setActivityLines .authority (framed [mask])) s =
        .next (s.answered .authority
          (State.offerConfig { s with activity := { s.activity with enable := mask } } .authority
            (.activityLines mask s.activity.enable))
          .ok [mask])) ∧
    (∀ (shift : Byte) (bgMin hold : BitVec 16),
      exec (.setBackground .authority (framed ([shift] ++ put2 bgMin.toNat ++ put2 hold.toNat))) s =
        let storedShift := max 4 (min 12 shift.toNat)
        let storedMin := max 8 bgMin.toNat
        .next (s.answered .authority
          (State.offerConfig
            { s with settings :=
              { s.settings with
                bgShift := storedShift
                bgMin := storedMin
                quietHold := hold.toNat } }
            .authority (.background storedShift storedMin hold.toNat))
          .ok (put1 storedShift ++ put2 storedMin ++ put2 hold.toNat))) ∧
    ∀ hold cap : BitVec 16,
      exec (.setEvent .authority (framed (put2 hold.toNat ++ put2 cap.toNat))) s =
        let storedHold := max 1 (min 255 hold.toNat)
        let storedCap := max 1 (min 255 cap.toNat)
        .next (s.answered .authority
          (State.offerConfig
            { s with settings := { s.settings with eventHold := storedHold, eventCap := storedCap } }
            .authority (.eventSettings storedHold storedCap))
          .ok (put1 storedHold ++ put1 storedCap))

/-! ### Activity and edges (chapter 6) -/

/-- ACTIVITY_PULSE (R97) marks the slice in progress and names it, and is answered EMPTY where there is none.
SET_EDGES (R99), CLEAR_EDGES (R101) and READ_EDGES (R102) act on the issuing port's own enables and flags. None of them
offers a record. -/
def Obligations.ActivityAndEdgeCommandsDoOnlyTheirPart : Prop :=
  (∀ s : State, s.takes .site = true →
    (s.timebase.slice = none →
      exec (.activityPulse .site (framed [])) s = .next (s.refusedWith .site .empty)) ∧
    ∀ tag, s.timebase.slice = some tag →
      exec (.activityPulse .site (framed [])) s =
        .next (s.answered .site { s with activity := { s.activity with pulse := true } } .ok
          (put2 tag.time.day.toNat ++ put3 tag.time.sod.val))) ∧
  ∀ (p : Port) (s : State), s.takes p = true →
    (∀ rise fall : Byte,
      exec (.setEdges p (framed [rise, fall])) s =
        .next (s.answered p (s.mapPort p fun q => { q with rise := rise, fall := fall }) .ok [rise, fall])) ∧
    (∀ mask : Byte,
      exec (.clearEdges p (framed [mask])) s =
        .next (s.answered p (s.mapPort p fun q => { q with edges := q.edges &&& ~~~mask }) .ok
          [(s.port p).edges &&& ~~~mask])) ∧
    exec (.readEdges p (framed [])) s =
      .next (s.answered p s .ok [(s.port p).edges, (s.port p).rise, (s.port p).fall, s.activity.level])

/-- A line that changes (R95, R100): a high that is seen sets the line's high-seen mark of the slice in progress, and
its rise and fall each set the edge flag of every port whose enable of that direction selects the line. A high shorter
than 1 ms is seen or not as the device chooses; unseen, it changes nothing but the line's level and its unseen mark, at
its rise and at its fall (log entry 1). Under a low NRST only the level moves, with no high unseen (DEDUCED: log entry
19); a rise of a high line and a fall of a low one cannot come about and change nothing (DEDUCED: log entry 21). -/
def Obligations.EdgesReachBothPorts : Prop :=
  ∀ (s : State) (l : Line), ∃ (up down cleared hidden marks : Byte) (rises falls : Port → Byte),
    (∀ j, member up j = (decide (j = l) || member s.activity.level j)) ∧
    (∀ j, member down j = (decide (j ≠ l) && member s.activity.level j)) ∧
    (∀ j, member cleared j = (decide (j ≠ l) && member s.activity.unseen j)) ∧
    (∀ j, member hidden j = (decide (j = l) || member s.activity.unseen j)) ∧
    (∀ j, member marks j = (decide (j = l ∧ s.timebase.slice ≠ none) || member s.activity.highSeen j)) ∧
    (∀ p j, member (rises p) j = (decide (j = l ∧ member (s.port p).rise l = true) || member (s.port p).edges j)) ∧
    (∀ p j, member (falls p) j = (decide (j = l ∧ member (s.port p).fall l = true) || member (s.port p).edges j)) ∧
    let flagged (edges : Port → Byte) (a : Activity) : State :=
      { s with
        activity := a
        site := { s.site with edges := edges .site }
        authority := { s.authority with edges := edges .authority } }
    let risen : State := flagged rises { s.activity with level := up, highSeen := marks, unseen := cleared }
    let risenUnseen : State := { s with activity := { s.activity with level := up, unseen := hidden } }
    (member s.activity.level l = true → ∀ short, exec (.actRise l short) s = .next s) ∧
    (member s.activity.level l = false → s.nrstLow = true →
      ∀ short, exec (.actRise l short) s =
        .next { s with activity := { s.activity with level := up, unseen := cleared } }) ∧
    (member s.activity.level l = false → s.nrstLow = false →
      exec (.actRise l false) s = .next risen ∧
        ∃ t, exec (.actRise l true) s = .next t ∧
          (t = { risen with shortHighs := s.shortHighs + 1 } ∨
            t = { risenUnseen with shortHighs := s.shortHighs + 1 })) ∧
    (member s.activity.level l = false → exec (.actFall l) s = .next s) ∧
    (member s.activity.level l = true → s.nrstLow = true ∨ member s.activity.unseen l = true →
      exec (.actFall l) s = .next { s with activity := { s.activity with level := down, unseen := cleared } }) ∧
    (member s.activity.level l = true → s.nrstLow = false → member s.activity.unseen l = false →
      exec (.actFall l) s = .next (flagged falls { s.activity with level := down, unseen := cleared }))

/-! ### Allowance and interlock (chapter 8) -/

/-- SET_WARN_FRACTION (R136): the fraction is stored as given; each open interval's allowance state is formed anew from
its A, S and R, and its RS and exhausted-at stay. -/
def Obligations.SetWarnFractionReformsTheStates : Prop :=
  ∀ (s : State) (v : Byte), s.takes .site = true →
    exec (.setWarnFraction .site (framed [v])) s =
      .next (s.answered .site
        (State.offerConfig
          { s with
            settings := { s.settings with warnFraction := v.toNat }
            channels := Oct.ofFn fun c =>
              { s.channel c with
                interval := (s.channel c).interval.map fun iv =>
                  let a := iv.planned * energy iv.limit
                  let used := iv.sumTot - iv.sumBg
                  { iv with
                    allowance :=
                      if a ≤ used then .exhausted
                      else if (a - used) * 256 < a * v.toNat then .warning
                      else .clear } } }
          .site (.warnFraction v.toNat s.settings.warnFraction))
        .ok [v])

/-- SET_ROUTE (R144, R145), its checks in order, and LOCK_ROUTING (R146), each with its CONFIG record. -/
def Obligations.RoutesAreSetUnlessLocked : Prop :=
  (∀ (p : Port) (s : State) (line source polarity : Byte), s.takes p = true →
    (p = .site ∧ s.matrix.locked = true →
      exec (.setRoute p (framed [line, source, polarity])) s = .next (s.refusedWith p .locked)) ∧
    (p = .authority ∨ s.matrix.locked = false → 8 ≤ line.toNat ∨ 25 ≤ source.toNat ∨ 2 ≤ polarity.toNat →
      exec (.setRoute p (framed [line, source, polarity])) s = .next (s.refusedWith p .range)) ∧
    ∀ (l : Line) (k : Source) (pol : Polarity), p = .authority ∨ s.matrix.locked = false →
      line.toNat = l.val → source.toNat = k.code → polarity.toNat = pol.code →
        exec (.setRoute p (framed [line, source, polarity])) s =
          .next (s.answered p
            (State.offerConfig { s with matrix := { s.matrix with routes := s.matrix.routes.set l ⟨k, pol⟩ } } p
              (.route l ⟨k, pol⟩ (s.matrix.routes.get l) s.matrix.locked))
            .ok [line, source, polarity])) ∧
  ∀ s : State, s.takes .authority = true →
    exec (.lockRouting .authority (framed [])) s =
      .next (s.answered .authority
        (State.offerConfig { s with matrix := { s.matrix with locked := true } } .authority
          (.routingLock s.matrix.locked))
        .ok [0x01#8])

/-- Once the routing lock is on it stays on until power-on, and no site-port command changes a route while it is on;
lock on or off, only SET_ROUTE and power-on ever change a route (R146, R148). -/
def Obligations.RoutingLockHolds : Prop :=
  ∀ (i : Instr) (s t : State), i ≠ .powerOn → exec i s = .next t →
    (s.matrix.locked = true → t.matrix.locked = true) ∧
    (s.matrix.locked = true → (∃ bytes, transactionBytes i = some (.site, bytes)) → t.matrix = s.matrix) ∧
    ((∀ p rest, i ≠ .setRoute p rest) → t.matrix.routes = s.matrix.routes)

/-- An interlock line's level is that of its route and its source's value, each source by its own test; every line is low
while NRST is low (R138, R139, R143). -/
def Obligations.LinesFollowTheirRoutes : Prop :=
  ∀ (s : State) (l : Line),
    (s.nrstLow = true → s.out l = false) ∧
    (s.nrstLow = false →
      ∀ k pol, s.matrix.routes.get l = ⟨k, pol⟩ →
        (s.out l = true ↔ (pol = .activeHigh ↔ s.source k = true))) ∧
    s.source .low = false ∧ s.source .high = true ∧
    (∀ c, (s.source (.warn c) = true ↔ (s.channel c).allowance ≠ .clear) ∧
      (s.source (.exhaust c) = true ↔ (s.channel c).allowance = .exhausted)) ∧
    (s.source .warnAny = true ↔ ∃ c, (s.channel c).allowance ≠ .clear) ∧
    (s.source .exhaustAny = true ↔ ∃ c, (s.channel c).allowance = .exhausted) ∧
    (s.source .eventAny = true ↔ ∃ c, (s.channel c).event ≠ none) ∧
    (s.source .prohibitedSlot = true ↔ ∃ tag, s.timebase.slice = some tag ∧ tag.plant = false) ∧
    (s.source .prohibitedActivity = true ↔ s.activity.episode ≠ none) ∧
    (s.source .headLostAny = true ↔ ∃ c, (s.channel c).link = .lost) ∧
    (s.source .logHigh = true ↔ 192 ≤ s.log.all.length)

/-! ### The log (chapter 9) -/

/-- The capacity rule (R155): below 255 held the record is appended with number N and a LOSS record in front of it
becomes final; at 255 or more with an open LOSS record it is counted there (R156); at 255 without one a new LOSS record
is appended that counts it first. The log never holds more than 256 records, the 256th an open LOSS record. A batch is
taken record by record in its order, each as the ones before it have left the log (R152), and the CONFIG record of an
immediate command is one such record, taken alone: its header has the channel absent and the site time of the slice in
progress, its body the port and the change (R152, R167, R181). -/
def Obligations.LogTakesByTheCapacityRule : Prop :=
  (∀ (log : Log) (time : Time) (o : Offer),
    (log.all.length < 255 →
      log.take time o =
        { log with
          records := log.all ++ [⟨log.next, o⟩]
          openLoss := none
          next := log.next + 1
          lag := min 4294967295 (log.lag + 1) }) ∧
    (∀ loss, 255 ≤ log.all.length → log.openLoss = some loss →
      log.take time o =
        { log with openLoss := some { loss with body := loss.body.raised time o.body.kind } }) ∧
    (log.all.length = 255 → log.openLoss = none →
      log.take time o =
        { log with
          openLoss := some ⟨log.next, LossBody.raised ⟨0, 0, 0, 0, 0, 0, time, time⟩ time o.body.kind⟩
          next := log.next + 1
          lag := min 4294967295 (log.lag + 1) }) ∧
    (log.records.length ≤ 255 → (log.take time o).records.length ≤ 255 ∧ (log.take time o).all.length ≤ 256)) ∧
  (∀ (log : Log) (time : Time) (o : Offer) (rest : List Offer),
    log.takeAll time [] = log ∧ log.takeAll time (o :: rest) = (log.take time o).takeAll time rest) ∧
  ∀ (s : State) (p : Port) (change : ConfigChange),
    s.offerConfig p change =
      { s with log := s.log.take s.timebase.time ⟨none, s.timebase.time, .config p change⟩ }

/-- The log never holds more than 256 records, the 256th an open LOSS record, and the numbers of those it holds run
consecutively up to N − 1: every step keeps it so (R151, R155). -/
def Obligations.LogStaysConsecutive : Prop :=
  ∀ s t : State, s.log.Ok → step s = .next t → t.log.Ok

/-- C = N − lag, modulo 2^32, for as long as the lag has not saturated: every step keeps it so (R162). -/
def Obligations.CursorFollowsTheNumbers : Prop :=
  ∀ s t : State, s.log.Ok → s.log.cursor = s.log.next - BitVec.ofNat 32 s.log.lag → step s = .next t →
    t.log.lag < 4294967295 → t.log.cursor = t.log.next - BitVec.ofNat 32 t.log.lag

/-- FETCH (R159) returns the oldest record, its final mark and the number held, and changes nothing; RELEASE (R160)
removes the oldest record where its argument names it. Neither moves N or the site cursor. (The width of the number of
records held is DEDUCED: log entry 15.) -/
def Obligations.FetchReadsAndReleaseRemovesTheOldest : Prop :=
  ∀ s : State, s.takes .authority = true →
    (s.log.all = [] →
      exec (.fetch .authority (framed [])) s = .next (s.refusedWith .authority .empty) ∧
      ∀ number : BitVec 32,
        exec (.release .authority (framed (put4 number.toNat))) s = .next (s.refusedWith .authority .empty)) ∧
    ∀ (oldest : Record) (younger : List Record), s.log.all = oldest :: younger →
      exec (.fetch .authority (framed [])) s =
        .next (s.answered .authority s .ok
          (oldest.bytes (decide (s.log.records ≠ [])) ++ put2 (1 + younger.length))) ∧
      (∀ number : BitVec 32, number ≠ oldest.seq →
        exec (.release .authority (framed (put4 number.toNat))) s = .next (s.refusedWith .authority .absent)) ∧
      ∃ log : Log, log.all = younger ∧
        log =
          { s.log with
            records := s.log.records.tail
            openLoss := if s.log.records = [] then none else s.log.openLoss } ∧
        exec (.release .authority (framed (put4 oldest.seq.toNat))) s =
          .next (s.answered .authority { s with log := log } .ok (put4 oldest.seq.toNat ++ put2 younger.length))

/-- PEEK (R163) first brings a cursor that is older than the oldest record up to it and tells how many records were
skipped, and then returns the record numbered C, or EMPTY at a lag of 0. While C is N minus the lag the record numbered C
is held; a lag that has saturated can leave a C that no record held has, and then PEEK still completes, with 48 bytes that
are free (DESIGN CHOICE: log entry 25). ADVANCE (R164) moves the cursor on by one record, and is answered EMPTY at a lag
of 0. That the skipped count takes 4 bytes and goes with EMPTY too is DEDUCED (log entry 15). -/
def Obligations.PeekReadsAndAdvanceMovesTheCursor : Prop :=
  (∀ s : State, s.takes .site = true →
    (s.log.lag = 0 → exec (.advance .site (framed [])) s = .next (s.refusedWith .site .empty)) ∧
    (s.log.lag ≠ 0 →
      exec (.advance .site (framed [])) s =
        .next (s.answered .site
          { s with log := { s.log with cursor := s.log.cursor + 1, lag := s.log.lag - 1 } } .ok
          (put4 (s.log.cursor + 1).toNat ++ put4 (s.log.lag - 1))))) ∧
  ∀ s : State, s.takes .site = true → s.log.Ok →
    ∃ log : Log,
      log = { s.log with lag := log.lag, cursor := log.cursor } ∧ log.lag = min s.log.lag s.log.all.length ∧
      (s.log.lag ≤ s.log.all.length → log.cursor = s.log.cursor) ∧
      (s.log.all.length < s.log.lag → log.cursor = (s.log.all.head?.map Record.seq).getD s.log.next) ∧
      (log.lag = 0 →
        exec (.peek .site (framed [])) s =
          .next (s.answered .site { s with log := log } .empty (put4 (s.log.lag - s.log.all.length)))) ∧
      (log.lag ≠ 0 → ∀ r ∈ s.log.all, r.seq = log.cursor →
        exec (.peek .site (framed [])) s =
          .next (s.answered .site { s with log := log } .ok
            (r.bytes (decide (r ∈ s.log.records)) ++ put4 (s.log.lag - s.log.all.length)))) ∧
      (log.lag ≠ 0 → (∀ r ∈ s.log.all, r.seq ≠ log.cursor) →
        ∃ record : List Byte, record.length = 48 ∧
          exec (.peek .site (framed [])) s =
            .next (s.answered .site { s with log := log } .ok
              (record ++ put4 (s.log.lag - s.log.all.length)))) ∧
      (s.log.cursor = s.log.next - BitVec.ofNat 32 s.log.lag ∨ s.log.all.length < s.log.lag →
        log.cursor = s.log.next - BitVec.ofNat 32 log.lag ∧
          (log.lag ≠ 0 → ∃ r ∈ s.log.all, r.seq = log.cursor))

/-! ### Snapshots and reads (chapter 10) -/

/-- LATCH (R184): every named channel whose slot is empty is captured, all from one moment; a full slot keeps what it
holds. READ_SNAPSHOT (R187): the capture is returned and its slot becomes empty. A capture copies the channel's state as
it stands (R185); that of a channel that is OFF is the OFF image, in which only the latch time, OFF, Nq 0, CLEAR and no
event are present (R186). -/
def Obligations.TheFirstLatchWins : Prop :=
  (∀ (s : State) (c : Channel),
    ((s.channel c).link = .off →
      s.capture c =
        ⟨s.timebase.time, .off, none, none, none, none, none, none, none, none, 0, .clear, none, false, none, none⟩) ∧
    ((s.channel c).link ≠ .off → (s.channel c).interval = none →
      s.capture c =
        ⟨s.timebase.time, (s.channel c).link, none, none, none, none, none, none, none,
          if s.settings.bgMin ≤ (s.channel c).background.nq then (s.channel c).background.eb.map lconv else none,
          (s.channel c).background.nq, .clear, none, (s.channel c).event.isSome,
          (s.channel c).event.map Event.duration, (s.channel c).lastResult⟩) ∧
    ((s.channel c).link ≠ .off → ∀ iv, (s.channel c).interval = some iv →
      ∃ running, s.capture c =
        ⟨s.timebase.time, (s.channel c).link, some iv.cls, some iv.openTime, some iv.planned, some iv.elapsed,
          some (iv.measured + iv.concealed), running, iv.lmaxSoFar,
          if s.settings.bgMin ≤ (s.channel c).background.nq then (s.channel c).background.eb.map lconv else none,
          (s.channel c).background.nq, iv.allowance, some iv.rs, (s.channel c).event.isSome, (s.channel c).event.map Event.duration,
          (s.channel c).lastResult⟩ ∧
        (running = none ↔ iv.measured + iv.concealed = 0) ∧
        ∀ r, running = some r → r = lconv (iv.sumTot / (iv.measured + iv.concealed)))) ∧
  ∀ (p : Port) (s : State), s.takes p = true →
    exec (.latch p (framed [0#8])) s = .next (s.refusedWith p .range) ∧
    (∀ mask : Byte, mask ≠ 0 →
      ∃ (slots : Oct (Option Capture)) (captured passed : Byte),
        (∀ c, slots.get c =
          if member mask c = true ∧ (s.port p).slots.get c = none then some (s.capture c) else (s.port p).slots.get c) ∧
        (∀ c, member captured c = (member mask c && ((s.port p).slots.get c).isNone)) ∧
        (∀ c, member passed c = (member mask c && ((s.port p).slots.get c).isSome)) ∧
        exec (.latch p (framed [mask])) s =
          .next (s.answered p (s.mapPort p fun q => { q with slots := slots }) .ok [captured, passed])) ∧
    (∀ b : Byte, 8 ≤ b.toNat → exec (.readSnapshot p (framed [b])) s = .next (s.refusedWith p .range)) ∧
    ∀ c : Channel,
      ((s.port p).slots.get c = none →
        exec (.readSnapshot p (framed (put1 c.val))) s = .next (s.refusedWith p .empty)) ∧
      ∀ k, (s.port p).slots.get c = some k →
        exec (.readSnapshot p (framed (put1 c.val))) s =
          .next (s.answered p (s.mapPort p fun q => { q with slots := q.slots.set c none }) .ok k.bytes)

/-- READ_DEVICE_STATUS (R188), READ_CHANNEL_STATUS (R189) and READ_CONFIG (R190) complete with OK, return state as it
stands, every group in the order of its table, and change nothing; a channel above 7 and a section that does not exist
are refused RANGE. (The widths of a few fields are DEDUCED: log entry 15.) -/
def Obligations.StatusReadsChangeNothing : Prop :=
  ∀ (p : Port) (s : State), s.takes p = true →
    (∃ (outs : Byte) (sources : BitVec 32) (data : List Byte),
      (∀ l, member outs l = s.out l) ∧ (∀ k : Source, sources.getLsbD k.code = s.source k) ∧
      (∀ n, 25 ≤ n → sources.getLsbD n = false) ∧
      (let tag := s.timebase.slice
        let episode := s.activity.episode
        let time := put2 s.timebase.time.day.toNat ++ put3 s.timebase.time.sod.val ++
          put1 (boolCode s.timebase.timeValid) ++ put1 s.timebase.weekdayOffset.val
        let calendar := put1? (tag.map fun t => t.time.sod.val / 7200) ++ put1? (tag.map fun t => t.profile.code) ++
          put1? (tag.map fun t => t.cls.val) ++ put1? (tag.map fun t => boolCode t.plant)
        let headLink := put2 s.headLink.crc ++ put2 s.headLink.stray
        let activity := [s.activity.level] ++ put2 s.activity.quiet
        let prohibited := put1 (boolCode episode.isSome) ++ putTime? (episode.map Episode.start) ++
          putTime? (episode.map Episode.last) ++ put4? (episode.map Episode.span) ++
          put4? (episode.map Episode.count) ++ put1? (episode.map fun e => e.lines.toNat) ++
          put1? (episode.map fun e => e.cls.val)
        let log := put2 s.log.all.length ++ put4? (s.log.all.head?.map fun r => r.seq.toNat) ++
          put4 s.log.next.toNat ++ put1 (boolCode s.log.openLoss.isSome) ++ put4 s.log.cursor.toNat ++ put4 s.log.lag
        let waiting : List Byte :=
          match s.authority.command with
          | .busy (.setTime _ _) => [0x20#8]
          | .busy (.channelOn _) => [0x26#8]
          | .busy (.channelOff _) => [0x27#8]
          | .busy (.cut _) => [0x2D#8]
          | .busy .restart => [0x2E#8]
          | .idle => [0xFF#8]
          | .done _ => [0xFF#8]
        data = time ++ calendar ++ headLink ++ activity ++ prohibited ++ ([outs] ++ put4 sources.toNat) ++ log ++
          (waiting ++ [(s.port p).attention, s.conditions p])) ∧
      data.length = 66 ∧ exec (.readDeviceStatus p (framed [])) s = .next (s.answered p s .ok data)) ∧
    (∀ b : Byte, 8 ≤ b.toNat → exec (.readChannelStatus p (framed [b])) s = .next (s.refusedWith p .range)) ∧
    (∀ (c : Channel) (ch : ChannelState), s.channel c = ch →
      ∃ data : List Byte,
        (let link := put1 ch.link.code ++ put2 ch.acquire ++ put2 ch.miss ++ put2 ch.late ++ put2 ch.dup ++
            put1? (ch.lastResult.map KeptResult.code) ++ put2? (ch.lastResult.bind KeptResult.level?)
          let interval := put1? (ch.interval.map fun iv => iv.cls.val) ++ putTime? (ch.interval.map Interval.openTime) ++
            put2? (ch.interval.map Interval.planned) ++ put2? (ch.interval.map Interval.elapsed) ++
            put2? (ch.interval.map fun iv => iv.measured + iv.concealed) ++
            put2? (ch.interval.bind fun iv =>
              if iv.measured + iv.concealed = 0 then none
              else some (lconv (iv.sumTot / (iv.measured + iv.concealed)))) ++
            put2? (ch.interval.bind Interval.lmaxSoFar) ++ put2? (ch.interval.map Interval.eventCount)
          let allowance := put1 ((ch.interval.map fun iv => iv.allowance.code).getD 0) ++
            put2? (ch.interval.map Interval.rs) ++ put2? (ch.interval.bind Interval.exhaustedAt)
          let gap := putTime? (ch.gap.map GapRun.start) ++ put4? (ch.gap.map GapRun.length)
          let event := put1 (boolCode ch.event.isSome) ++ putTime? (ch.event.map Event.start) ++
            put2? (ch.event.map Event.age) ++ put2? (ch.event.map Event.duration) ++ put2? (ch.event.map Event.hold) ++
            put1? (ch.event.map fun e => boolCode e.suppressed)
          let background := put2 ch.background.nq ++
            put2? (if s.settings.bgMin ≤ ch.background.nq then ch.background.eb.map lconv else none)
          data = link ++ interval ++ allowance ++ gap ++ event ++ background) ∧
        data.length = 61 ∧ exec (.readChannelStatus p (framed (put1 c.val))) s = .next (s.answered p s .ok data)) ∧
    (∀ b : Byte, 7 ≤ b.toNat → exec (.readConfig p (framed [b])) s = .next (s.refusedWith p .range)) ∧
    exec (.readConfig p (framed [0#8])) s =
      .next (s.answered p s .ok (s.timebase.workingSlots.toList.map fun k => BitVec.ofNat 8 k.val)) ∧
    exec (.readConfig p (framed [1#8])) s =
      .next (s.answered p s .ok (s.timebase.restSlots.toList.map fun k => BitVec.ofNat 8 k.val)) ∧
    exec (.readConfig p (framed [2#8])) s =
      .next (s.answered p s .ok (s.timebase.classes.toList.flatMap fun k =>
        put2 k.limit ++ put1 k.length.minutes ++ put2 k.lmax ++ put2 k.peak ++ put1 (boolCode k.plant))) ∧
    exec (.readConfig p (framed [3#8])) s =
      .next (s.answered p s .ok
        (put1 s.timebase.restWeekdays.toNat ++ put1 s.timebase.defaultClass.val ++
          put1 (boolCode s.timebase.calendarEnable) ++ putRestDays s.timebase.restDays)) ∧
    (∃ enabled : Byte, (∀ c, member enabled c = decide ((s.channel c).link ≠ .off)) ∧
      exec (.readConfig p (framed [4#8])) s = .next (s.answered p s .ok [enabled, s.activity.enable])) ∧
    exec (.readConfig p (framed [5#8])) s =
      .next (s.answered p s .ok
        (put1 s.settings.concealMax ++ put1 s.settings.lossCount ++ put1 s.settings.bgShift ++ put2 s.settings.bgMin ++
          put2 s.settings.quietHold ++ put1 s.settings.eventHold ++ put1 s.settings.eventCap ++
          put1 s.settings.warnFraction)) ∧
    exec (.readConfig p (framed [6#8])) s =
      .next (s.answered p s .ok
        ((List.finRange 8).flatMap (fun l => put1 (s.matrix.routes.get l).source.code ++
          put1 (s.matrix.routes.get l).polarity.code) ++ put1 (boolCode s.matrix.locked)))

/-- The bytes of a record (R150, R199): 48 of them, the header's fields in bytes 0 to 11 and the body's of its kind from
byte 12 on, each in its place and width, high byte first, an absent one all ones (R194), unused bytes 00h. The bytes of a
capture (R185, R198): 35, row by row of the List of Snapshot Fields. The enumerations, the interlock sources, the
statuses of a response and the LENGTHs stand by their codes (R194, R197, R198, R16). (A present time of day 65535 stands
as it is, DEDUCED: log entry 24. Bits 9 to 15 of the INTERVAL flags are 0, DESIGN CHOICE: log entry 26.) -/
def Obligations.RecordsAndCapturesKeepTheirLayouts : Prop :=
  (∀ (r : Record) (final : Bool) (bytes : List Byte), r.bytes final = bytes →
    bytes.length = 48 ∧
    Laid bytes
      ([⟨0, 4, r.seq.toNat⟩, optionalField 5 1 (r.offer.channel.map Fin.val)] ++ timeFields 6 r.offer.time ++
        [⟨11, 1, if final then 1 else 0⟩]) ∧
    match r.offer.body with
    | .interval b =>
      Laid bytes
        ([⟨4, 1, 1⟩, ⟨12, 1, b.cls.val * 16 + b.cause.code⟩, ⟨13, 1, b.verdict.code⟩] ++
          pairFields 16
            [some b.limit, some b.planned, some b.elapsed, some b.measured, some b.concealed, some b.missing, some b.cal,
              some b.nbg, b.ltot, b.lbg, b.lsite, b.lmax, b.peakMax, some b.eventCount, some b.activitySlices,
              b.exhaustedAt]) ∧
      ∀ i, (fieldAt bytes 14 2).testBit i =
        [b.short, b.overload, b.lmaxExceeded, b.peakExceeded, b.timeUnset, b.eventsSuppressed, b.invalid, b.noBackground,
          b.dominated].getD i false
    | .event b =>
      Laid bytes
        ([⟨4, 1, 2⟩] ++ timeFields 12 b.start ++ timeFields 17 b.lastTrigger ++
          [⟨22, 2, b.duration⟩, ⟨24, 1, b.homeClass.val⟩] ++ timeFields 25 b.homeOpenTime ++
          pairFields 30 [some b.lmaxThreshold, some b.peakThreshold, some b.lmax, some b.peakMax, some b.exposure] ++
          [⟨40, 1, b.cause.code⟩]) ∧ bytes.drop 41 = List.replicate 7 0
    | .gap b =>
      Laid bytes
        ([⟨4, 1, 3⟩] ++ timeFields 12 b.start ++ timeFields 17 b.last ++
          [⟨22, 4, b.length⟩, ⟨26, 1, b.cause.code⟩, optionalField 27 1 (b.refusal.map ConcealRefusal.code),
            ⟨28, 1, if b.afterLevel then 1 else 0⟩] ++ timeFields 29 b.homeOpenTime) ∧
      bytes.drop 34 = List.replicate 14 0
    | .prohibited b =>
      Laid bytes
        ([⟨4, 1, 4⟩] ++ timeFields 12 b.start ++ timeFields 17 b.last ++
          [⟨22, 4, b.span⟩, ⟨26, 4, b.count⟩, ⟨30, 1, b.lines.toNat⟩, ⟨31, 1, b.cls.val⟩, ⟨32, 1, b.cause.code⟩]) ∧
      bytes.drop 33 = List.replicate 15 0
    | .loss b =>
      Laid bytes
        ([⟨4, 1, 6⟩] ++
          pairFields 12
            [some b.total, some b.intervals, some b.events, some b.gaps, some b.prohibiteds, some b.configs] ++
          timeFields 24 b.first ++ timeFields 29 b.last) ∧ bytes.drop 34 = List.replicate 14 0
    | .config port change =>
      let kind (n : Nat) : List Field := [⟨4, 1, 5⟩, ⟨12, 1, n + match port with | .site => 0 | .authority => 128⟩]
      let days (list : List (BitVec 16)) : Prop :=
        fieldAt bytes 15 1 = list.length % 256 ∧
          ∀ i < 16, fieldAt bytes (16 + 2 * i) 2 = (list.getD i 0xFFFF#16).toNat
      let route (offset : Nat) (x : Route) : List Field :=
        [⟨offset, 1, x.source.code⟩, ⟨offset + 1, 1, match x.polarity with | .activeHigh => 0 | .activeLow => 1⟩]
      match change with
      | .time new weekday old valid =>
        Laid bytes
          (kind 1 ++ timeFields 13 new ++
            [⟨18, 1, weekday.val⟩, optionalField 19 2 (old.map fun t => t.day.toNat),
              optionalField 21 3 (old.map fun t => t.sod.val), ⟨24, 1, if valid then 1 else 0⟩]) ∧
        bytes.drop 25 = List.replicate 23 0
      | .calendar profile first count codes check =>
        Laid bytes
          (kind 2 ++ [⟨13, 1, (match profile with | .working => 0 | .rest => 128) + first⟩, ⟨14, 1, count⟩] ++
            (List.range 30).map (fun i =>
              ⟨15 + i, 1, ((codes[2 * i]?).map Fin.val).getD 15 * 16 + ((codes[2 * i + 1]?).map Fin.val).getD 15⟩) ++
            [⟨45, 2, check.toNat⟩]) ∧ bytes.drop 47 = [0]
      | .cls n k =>
        Laid bytes
          (kind 3 ++
            [⟨13, 1, n.val⟩, ⟨14, 2, k.limit⟩, ⟨16, 1, k.length.minutes⟩, ⟨17, 2, k.lmax⟩, ⟨19, 2, k.peak⟩,
              ⟨21, 1, if k.plant then 1 else 0⟩]) ∧ bytes.drop 22 = List.replicate 26 0
      | .dayRules weekdays fallback enable =>
        Laid bytes
          (kind 4 ++ [⟨13, 1, weekdays.toNat⟩, ⟨14, 1, fallback.val⟩, ⟨15, 1, if enable then 1 else 0⟩]) ∧
        bytes.drop 16 = List.replicate 32 0
      | .restDayAdd day list => Laid bytes (kind 5 ++ [⟨13, 2, day.toNat⟩]) ∧ days list
      | .restDayDrop day list => Laid bytes (kind 6 ++ [⟨13, 2, day.toNat⟩]) ∧ days list
      | .channelOn link => Laid bytes (kind 7 ++ [⟨13, 1, link.code⟩]) ∧ bytes.drop 14 = List.replicate 34 0
      | .channelOff link => Laid bytes (kind 8 ++ [⟨13, 1, link.code⟩]) ∧ bytes.drop 14 = List.replicate 34 0
      | .cut mask closed =>
        Laid bytes (kind 9 ++ [⟨13, 1, mask.toNat⟩, ⟨14, 1, closed.toNat⟩]) ∧ bytes.drop 15 = List.replicate 33 0
      | .restart next => Laid bytes (kind 10 ++ [⟨13, 4, next.toNat⟩]) ∧ bytes.drop 17 = List.replicate 31 0
      | .countersClear crcCount stray late dup =>
        Laid bytes (kind 11 ++ pairFields 13 [some crcCount, some stray, some late, some dup]) ∧
        bytes.drop 21 = List.replicate 27 0
      | .activityLines stored before =>
        Laid bytes (kind 12 ++ [⟨13, 1, stored.toNat⟩, ⟨14, 1, before.toNat⟩]) ∧ bytes.drop 15 = List.replicate 33 0
      | .background shift min hold =>
        Laid bytes (kind 13 ++ [⟨13, 1, shift⟩, ⟨14, 2, min⟩, ⟨16, 2, hold⟩]) ∧ bytes.drop 18 = List.replicate 30 0
      | .eventSettings hold cap =>
        Laid bytes (kind 14 ++ [⟨13, 1, hold⟩, ⟨14, 1, cap⟩]) ∧ bytes.drop 15 = List.replicate 33 0
      | .gapSettings concealMax lossCount =>
        Laid bytes (kind 15 ++ [⟨13, 1, concealMax⟩, ⟨14, 1, lossCount⟩]) ∧ bytes.drop 15 = List.replicate 33 0
      | .warnFraction stored before =>
        Laid bytes (kind 16 ++ [⟨13, 1, stored⟩, ⟨14, 1, before⟩]) ∧ bytes.drop 15 = List.replicate 33 0
      | .route line stored before locked =>
        Laid bytes
          (kind 17 ++ [⟨13, 1, line.val⟩] ++ route 14 stored ++ route 16 before ++
            [⟨18, 1, if locked then 1 else 0⟩]) ∧ bytes.drop 19 = List.replicate 29 0
      | .routingLock before =>
        Laid bytes (kind 18 ++ [⟨13, 1, if before then 1 else 0⟩]) ∧ bytes.drop 14 = List.replicate 34 0) ∧
  (∀ (k : Capture) (bytes : List Byte), k.bytes = bytes →
    bytes.length = 35 ∧
    Laid bytes
      (timeFields 0 k.latchTime ++
        [⟨5, 1, k.link.code⟩, optionalField 6 1 (k.cls.map Fin.val),
          optionalField 7 2 (k.openTime.map fun t => t.day.toNat), optionalField 9 3 (k.openTime.map fun t => t.sod.val)] ++
        pairFields 12
          [k.planned, k.elapsed, k.nacc, k.runningLevel, k.lmax, k.backgroundLevel, some k.nq] ++
        [⟨26, 1, k.allowance.code⟩, optionalField 27 2 k.rs, ⟨29, 1, if k.eventOpen then 1 else 0⟩,
          optionalField 30 2 k.eventDuration, optionalField 32 1 (k.lastResult.map KeptResult.code),
          optionalField 33 2 (k.lastResult.bind KeptResult.level?)])) ∧
  [Cause.length, .classChange, .cut, .timeStep, .channelOff, .restart, .hold, .long, .pause, .level, .cal].map
      Cause.code = [1, 2, 3, 4, 5, 6, 7, 8, 9, 10, 11] ∧
  [AssessVerdict.compliant, .exceeded, .indeterminate, .invalid].map AssessVerdict.code = [0, 1, 2, 3] ∧
  [ConcealRefusal.tooLong, .noLevelBefore, .intervalClosed, .intervalStart].map ConcealRefusal.code = [1, 2, 3, 4] ∧
  [LinkState.off, .search, .live, .lost].map LinkState.code = [0, 1, 2, 3] ∧
  [Allowance.clear, .warning, .exhausted].map Allowance.code = [0, 1, 2] ∧
  (∀ l, [KeptResult.missing, .level l, .cal].map KeptResult.code = [0, 1, 2]) ∧
  ([Profile.working, .rest].map Profile.code = [0, 1] ∧ [Polarity.activeHigh, .activeLow].map Polarity.code = [0, 1] ∧
    [Port.site, .authority].map portCode = [0, 1]) ∧
  [Status.ok, .unknown, .format, .privilege, .range, .locked, .full, .duplicate, .absent, .empty, .nothing].map
      Status.code = [0, 1, 2, 3, 4, 5, 6, 7, 8, 9, 10] ∧
  ([Source.low, .high, .warnAny, .exhaustAny, .eventAny, .prohibitedSlot, .prohibitedActivity, .headLostAny,
      .logHigh].map Source.code = [0, 1, 18, 19, 20, 21, 22, 23, 24] ∧
    (List.finRange 8).map (fun c => (Source.warn c).code) = [2, 3, 4, 5, 6, 7, 8, 9] ∧
    (List.finRange 8).map (fun c => (Source.exhaust c).code) = [10, 11, 12, 13, 14, 15, 16, 17]) ∧
  [IntervalLength.min5, .min10, .min15, .min30, .min60].map IntervalLength.minutes = [5, 10, 15, 30, 60]

/-! ### Resets and the slice clock -/

/-- The part right after power-on: every reset value that the spec gives, at State.reset and after POWER_ON in any state
(R2, R6, R8, R9, R11, R12, R16, R40, R79, R93, R94, R96, R99, R102, R104, R106, R109, R116, R130, R136, R148, R171,
R183); POWER_ON leaves the levels of the pins as the world has them (log entry 2). A transaction in progress is marked, so
that it is ignored at its end (R183 for the fall of NRST; for power-on DEDUCED: log entry 7). -/
def Obligations.PowerOnGivesTheResetValues : Prop :=
  (∀ s : State, ∃ t, exec .powerOn s = .next t ∧ t.nrstLow = s.nrstLow ∧ t.activity.level = s.activity.level ∧
    ∀ p, (t.port p).transaction = (s.port p).transaction.map fun x => { x with spoiled := true }) ∧
  ∀ t : State, (t = State.reset ∨ ∃ s, exec .powerOn s = .next t) →
    t.crystalRunning = false ∧ t.timebase.time = ⟨0, 0⟩ ∧ t.timebase.timeValid = false ∧
    t.timebase.weekdayOffset = 0 ∧ t.timebase.profile = .working ∧ t.timebase.slotClass = 0 ∧
    t.timebase.slice = none ∧ t.timebase.lastSlice = none ∧
    (∀ i : Fin 96, t.timebase.workingSlots.get i = 0 ∧ t.timebase.restSlots.get i = 0) ∧
    t.timebase.restWeekdays = 0 ∧ t.timebase.defaultClass = 0 ∧ t.timebase.calendarEnable = false ∧
    t.timebase.restDays = [] ∧
    (∀ i : Fin 12, t.timebase.classes.get i = ⟨1400, .min60, 1400, 1500, true⟩) ∧
    t.headLink = ⟨false, none, [], 0, 0⟩ ∧
    (∀ c, t.channel c = ⟨.off, 0, 0, none, none, 0, 0, none, none, none, ⟨none, 0⟩, none⟩) ∧
    t.activity = ⟨t.activity.level, 0, 0, false, 0, 480, none, none, none⟩ ∧
    t.settings = ⟨8, 40, 9, 2400, 480, 16, 32, 64⟩ ∧ t.log = ⟨[], none, 1, 1, 0⟩ ∧ t.matrix.locked = false ∧
    (∀ l, t.matrix.routes.get l = ⟨.low, .activeHigh⟩) ∧
    ∀ p, (t.port p).command = .idle ∧ (t.port p).collided = false ∧ (∀ c, (t.port p).slots.get c = none) ∧
      (t.port p).attention = 0 ∧ (t.port p).rise = 0 ∧ (t.port p).fall = 0 ∧ (t.port p).edges = 0

/-- A pin reset: while NRST is low every output line is low, and no slice, open work or record is held (R1, R79, R94,
R130, R143, R171, R183); after its release the part is as after power-on but for the routes, the routing lock and the
crystal, which runs on (R148). So it is at a release from every state with NRST low, whatever the lines and
chip-selects did meanwhile: the present levels of the lines are the starting levels, with no edge taken (R100), and a
transaction in progress goes on as it stood. The fall marks a transaction in progress at either port, so that it is
ignored at its end even after the release (R183). What is discarded at the fall and what is set at the release is the model's
division (log entry 8; for the transactions log entry 14). -/
def Obligations.PinResetDiscardsOpenWork : Prop :=
  (∀ s : State, s.nrstLow = true →
    ∃ u v : State, exec .nrstRelease s = .next u ∧ exec .powerOn s = .next v ∧
      u.activity.level = s.activity.level ∧ (∀ p, (u.port p).edges = 0) ∧
      u =
        { v with
          nrstLow := false
          crystalRunning := s.crystalRunning
          matrix := s.matrix
          site := { v.site with transaction := s.site.transaction }
          authority := { v.authority with transaction := s.authority.transaction } }) ∧
  ∀ s : State, s.nrstLow = false →
    ∃ t u v : State, exec .nrstLow s = .next t ∧ exec .nrstRelease t = .next u ∧ exec .powerOn s = .next v ∧
      t.nrstLow = true ∧ t.outs = 0 ∧ (∀ p, t.ready p = false ∧ t.attn p = false ∧ (t.port p).command = .idle) ∧
      (∀ p, (t.port p).transaction = (s.port p).transaction.map fun x => { x with spoiled := true }) ∧
      t.headLink.driverOn = false ∧ t.timebase.slice = none ∧ t.log.all = [] ∧ t.activity.episode = none ∧
      (∀ c, (t.channel c).interval = none ∧ (t.channel c).gap = none ∧ (t.channel c).event = none ∧
        (t.channel c).held = none) ∧
      u = { v with nrstLow := false, crystalRunning := s.crystalRunning, matrix := s.matrix }

/-- The slice clock (R1): it starts when the crystal runs, it stands still before and while NRST is low, and its first
boundary starts the slice that the timebase holds, with no SYNC, no deadline and no record (R23, R24). That slice is the
first of its slot, so the slot class is read (R6); the rest of the timebase stays, the day profile among it (DEDUCED: log
entry 12). The high-seen marks follow the lines from that boundary on (R95; a line whose present high is unseen is
DEDUCED to set none: log entry 19); no slice has ended, so nothing is judged, and with no timed command pending Q and the
episode stay as they are (R98, R104, R112). That no SYNC is sent and that the marks follow the lines holds with any
command pending, a SET_TIME too. That its first boundary is a later BOUNDARY is DEDUCED (log entry 11). -/
def Obligations.SliceClockRunsOnTheCrystal : Prop :=
  (∀ s : State, exec .sliceClockStart s = .next { s with crystalRunning := true }) ∧
  (∀ (s : State) (heard : List Byte), s.crystalRunning = false ∨ s.nrstLow = true →
    exec (.boundary heard) s = .next s) ∧
  (∀ (s : State) (heard : List Byte), s.crystalRunning = true → s.nrstLow = false → s.timebase.slice = none →
    ∃ t, exec (.boundary heard) s = .next t ∧ t.headLink.syncTag = s.headLink.syncTag ∧
      t.headLink.driverOn = s.headLink.driverOn ∧
      ∀ l, member t.activity.highSeen l = (member s.activity.level l && !member s.activity.unseen l)) ∧
  ∀ (s : State) (heard : List Byte), s.crystalRunning = true → s.nrstLow = false → s.timebase.slice = none →
    s.timebase.lastSlice = none → (∀ time weekday, s.pendingTimed ≠ some (.setTime time weekday)) →
      ∃ t tag cls, exec (.boundary heard) s = .next t ∧ tag.time = s.timebase.time ∧
        t.timebase = { s.timebase with slice := some tag, slotClass := cls } ∧
        (s.timebase.time.sod.val % 7200 = 0 →
          cls = (s.timebase.slots s.timebase.profile).get (slotOf s.timebase.time)) ∧
        (s.timebase.time.sod.val % 7200 ≠ 0 → cls = s.timebase.slotClass) ∧
        (s.pendingTimed = none →
          (∀ c, t.channel c = s.channel c) ∧ t.log = s.log ∧
            t.activity = { s.activity with highSeen := t.activity.highSeen, pulse := false })

/-! ### The head link (chapter 2) -/

/-- A received frame runs through the acceptance checks in their order, and the first that fails decides its fate: CRC
(R25), STRAY (R26), a channel that is OFF (R27), LATE (R28), DUP (R29); a REPORT that passes them all is held. Nothing
is received while the driver is enabled (R22) or NRST is low (R40). No characters at all are no frame (DEDUCED: log
entry 18). -/
def Obligations.FramesRunThroughTheAcceptanceChecks : Prop :=
  ∀ (s : State) (heard frame : List Byte), s.headLink.inFrame ++ heard = frame →
    (s.nrstLow = true ∨ s.headLink.driverOn = true → exec (.frameReceived heard) s = .next s) ∧
    (s.nrstLow = false → s.headLink.driverOn = false →
      (frame = [] → exec (.frameReceived heard) s = .next s) ∧
      (frame ≠ [] → (frame.length < 3 ∨
          frame.drop (frame.length - 2) ≠ put2 (crc (frame.take (frame.length - 2))).toNat) →
        exec (.frameReceived heard) s =
          .next { s with headLink := { s.headLink with inFrame := [], crc := min 65535 (s.headLink.crc + 1) } }) ∧
      (∀ body, body ≠ [] → frame = body ++ put2 (crc body).toNat →
        (body.length ≠ 8 ∨ body.getD 0 0 ≠ 0x52#8 ∨ body.getD 1 0 = 0 ∨ 8 < (body.getD 1 0).toNat) →
          exec (.frameReceived heard) s =
            .next { s with headLink :=
              { s.headLink with inFrame := [], stray := min 65535 (s.headLink.stray + 1) } }) ∧
      ∀ (c : Channel) (tag : Byte) (level peak : BitVec 16) (flags : Byte),
        frame = reportFrame (BitVec.ofNat 8 (c.val + 1)) tag level peak flags →
          ∃ ch, exec (.frameReceived heard) s =
              .next { s with headLink := { s.headLink with inFrame := [] }, channels := s.channels.set c ch } ∧
            ((s.channel c).link = .off → ch = s.channel c) ∧
            ((s.channel c).link ≠ .off → s.headLink.syncTag ≠ some tag →
              ch = { s.channel c with late := min 65535 ((s.channel c).late + 1) }) ∧
            ((s.channel c).link ≠ .off → s.headLink.syncTag = some tag → (s.channel c).held ≠ none →
              ch = { s.channel c with dup := min 65535 ((s.channel c).dup + 1) }) ∧
            ((s.channel c).link ≠ .off → s.headLink.syncTag = some tag → (s.channel c).held = none →
              ch = { s.channel c with held := some ⟨level, peak, flags⟩ }))

/-- The SYNC (R22, R23): every boundary that ends a slice ends a frame still in reception, enables the driver and sends
the SYNC frame with that slice's slice-of-day modulo 256; once it has been sent the driver is disabled. The frame that is
ended is checked as an arrival taken before the boundary: the boundary is a FRAME_RECEIVED of it, followed by a boundary
with no frame in reception. While the driver is enabled nothing is in reception; at the first boundary after a reset,
where no SYNC is due, the reception goes on (DEDUCED: log entry 18). -/
def Obligations.SyncNamesTheSliceThatEnded : Prop :=
  (∀ (s : State) (heard : List Byte) (ended : Tag), s.clockRuns = true → s.timebase.slice = some ended →
    ∃ t, exec (.boundary heard) s = .next t ∧ t.headLink.driverOn = true ∧
      (∃ tag : Byte, tag.toNat = ended.time.sod.val % 256 ∧ t.headLink.syncTag = some tag ∧
        hbTx t = some ([0x51#8, tag] ++ put2 (crc [0x51#8, tag]).toNat)) ∧
      (s.headLink.driverOn = false →
        t.headLink.inFrame = [] ∧
          ∃ u, exec (.frameReceived heard) s = .next u ∧ exec (.boundary heard) s = exec (.boundary []) u) ∧
      (s.headLink.driverOn = true → exec (.boundary heard) s = exec (.boundary []) s)) ∧
  (∀ (s : State) (heard : List Byte), s.clockRuns = true → s.timebase.slice = none → s.headLink.driverOn = false →
    exec (.boundary heard) s =
      exec (.boundary []) { s with headLink := { s.headLink with inFrame := s.headLink.inFrame ++ heard } }) ∧
  ∀ s : State, exec .endOfSync s = .next { s with headLink := { s.headLink with driverOn := false } }

/-- The deadline (R32, R34, R35, R36, R37): the held report becomes a finding, the link state moves by the List of Link
State Transitions, and the slice result is the finding in LIVE and at the completion of an acquisition, MISSING
otherwise; it is kept as the last result unless its slice was voided. The results of a voided slice are discarded: they
are accounted into nothing, and no record of a channel is offered (R20, R37, R68). Where no slice stands before the one
that ends, as at the second boundary, there is no deadline and no channel changes (R24, R37). -/
def Obligations.LinkStatesMoveAtTheDeadline : Prop :=
  (∀ held : Option Report, (held = none → interpret held = .missing) ∧
    ∀ r, held = some r →
      (r.flags.getLsbD 3 = true → interpret held = .missing) ∧
      (r.flags.getLsbD 3 = false → r.flags.getLsbD 2 = true → interpret held = .cal) ∧
      (r.flags.getLsbD 3 = false → r.flags.getLsbD 2 = false →
        ∃ (l : Nat) (overload : Bool), interpret held = .level l (max 400 (min 1500 r.peak.toNat)) overload ∧
          (overload = true ↔ r.flags.getLsbD 0 = true ∨ 1400 < r.level.toNat) ∧
          (overload = true → l = 1400) ∧
          (overload = false →
            l = if r.flags.getLsbD 1 = true ∨ r.level.toNat < 200 then 200 else r.level.toNat) ∧
          200 ≤ l ∧ l ≤ 1400)) ∧
  (∀ (s : State) (heard : List Byte) (c : Channel), s.clockRuns = true → s.pendingTimed = none →
    s.timebase.lastSlice = none →
      s.handedOn heard c = none ∧ ∃ t offers, exec (.boundary heard) s = .next t ∧
        t.channel c = (frameAtBoundary heard s).channel c ∧ t.log = s.log.takeAll t.timebase.time offers ∧
        ∀ o ∈ offers, o.channel ≠ some c) ∧
  ∀ (s : State) (heard : List Byte) (c : Channel) (ended : EndedSlice) (ch : ChannelState) (finding : SliceResult),
    s.clockRuns = true → s.pendingTimed = none → s.timebase.lastSlice = some ended →
      (frameAtBoundary heard s).channel c = ch → interpret ch.held = finding →
        ∃ t u offers, exec (.boundary heard) s = .next t ∧ t.channel c = u ∧
          t.log = s.log.takeAll t.timebase.time offers ∧ u.late = ch.late ∧ u.dup = ch.dup ∧
          (ch.link = .off → u = ch ∧ s.handedOn heard c = none ∧ ∀ o ∈ offers, o.channel ≠ some c) ∧
          (ch.link ≠ .off → u.held = none) ∧
          (ch.link = .search → finding = .missing → u.link = .search ∧ u.acquire = 0 ∧ u.miss = ch.miss) ∧
          (ch.link = .search → finding ≠ .missing → ch.acquire = 2 → u.link = .live ∧ u.acquire = 0 ∧ u.miss = 0) ∧
          (ch.link = .search → finding ≠ .missing → ch.acquire ≠ 2 →
            u.link = .search ∧ u.acquire = ch.acquire + 1 ∧ u.miss = ch.miss) ∧
          (ch.link = .live → finding ≠ .missing → u.link = .live ∧ u.acquire = ch.acquire ∧ u.miss = 0) ∧
          (ch.link = .live → finding = .missing → s.settings.lossCount ≤ ch.miss + 1 →
            u.link = .lost ∧ u.acquire = ch.acquire ∧ u.miss = 0) ∧
          (ch.link = .live → finding = .missing → ch.miss + 1 < s.settings.lossCount →
            u.link = .live ∧ u.acquire = ch.acquire ∧ u.miss = ch.miss + 1) ∧
          (ch.link = .lost → finding ≠ .missing → u.link = .search ∧ u.acquire = 1 ∧ u.miss = ch.miss) ∧
          (ch.link = .lost → finding = .missing → u.link = .lost ∧ u.acquire = ch.acquire ∧ u.miss = ch.miss) ∧
          (ended.voided = true → s.handedOn heard c = none ∧ u.lastResult = ch.lastResult ∧
            u.interval = ch.interval ∧ u.gap = ch.gap ∧ u.event = ch.event ∧ u.prev = ch.prev ∧
            u.background = ch.background ∧ ∀ o ∈ offers, o.channel ≠ some c) ∧
          (ended.voided = false → ch.link ≠ .off →
            ∃ r, s.handedOn heard c = some r ∧ u.lastResult = some r.kept ∧
              (ch.link = .live ∨ (ch.link = .search ∧ ch.acquire = 2) → r = finding) ∧
              (ch.link = .lost ∨ (ch.link = .search ∧ ch.acquire ≠ 2) → r = .missing))

/-! ### Time at a boundary (chapter 1) -/

/-- At a boundary that ends a slice and is no time step the site time advances by one slice (R3) and TIME_VALID stays as
it is (R2); the day rollover prunes the rest-day list and chooses the new day's profile (R8); the day wrap empties the
list and moves WEEKDAY_OFFSET by 2 (R4); the class of a slot is read at its first slice (R6). -/
def Obligations.SiteTimeAdvancesBySlices : Prop :=
  ∀ (s : State) (heard : List Byte), s.clockRuns = true → s.timebase.slice ≠ none →
    (∀ time weekday, s.pendingTimed ≠ some (.setTime time weekday)) →
      ∃ t, exec (.boundary heard) s = .next t ∧ t.timebase.timeValid = s.timebase.timeValid ∧
        (s.timebase.time.sod.val < 691199 →
          t.timebase.time.day = s.timebase.time.day ∧ t.timebase.time.sod.val = s.timebase.time.sod.val + 1 ∧
          t.timebase.restDays = s.timebase.restDays ∧ t.timebase.weekdayOffset = s.timebase.weekdayOffset ∧
          t.timebase.profile = s.timebase.profile) ∧
        (s.timebase.time.sod.val = 691199 → s.timebase.time.day ≠ 65535#16 →
          t.timebase.time = ⟨s.timebase.time.day + 1, 0⟩ ∧
          t.timebase.restDays = s.timebase.restDays.filter (fun d => s.timebase.time.day + 1 ≤ d) ∧
          t.timebase.weekdayOffset = s.timebase.weekdayOffset ∧
          (t.timebase.profile = .rest ↔ s.timebase.time.day + 1 ∈ s.timebase.restDays ∨
            s.timebase.restWeekdays.getLsbD
              (((s.timebase.time.day + 1).toNat + s.timebase.weekdayOffset.val) % 7) = true)) ∧
        (s.timebase.time.sod.val = 691199 → s.timebase.time.day = 65535#16 →
          t.timebase.time = ⟨0, 0⟩ ∧ t.timebase.restDays = [] ∧
          t.timebase.weekdayOffset.val = (s.timebase.weekdayOffset.val + 2) % 7 ∧
          (t.timebase.profile = .rest ↔
            s.timebase.restWeekdays.getLsbD ((s.timebase.weekdayOffset.val + 2) % 7) = true)) ∧
        (t.timebase.time.sod.val % 7200 = 0 →
          t.timebase.slotClass = (s.timebase.slots t.timebase.profile).get (slotOf t.timebase.time)) ∧
        (t.timebase.time.sod.val % 7200 ≠ 0 → t.timebase.slotClass = s.timebase.slotClass)

/-- A time step (R19, R20, R68): the slice that starts takes the new time, the weekday is the one given, the list is
pruned, profile and slot class are read at once, the slice that ended is voided, every interval, gap run, event and
episode closes, SET_TIME completes with OK and no data (DEDUCED: log entry 15), and its CONFIG record stands last in
the batch. The closes are made after the accounts of the boundary, and each offers its record with cause TIME_STEP (R65,
R68, R90, R125): beside them the batch holds what the same boundary offers with nothing pending. The episode closes as
the voided slice found it (R114). -/
def Obligations.TimeStepMovesTheSiteTime : Prop :=
  ∀ (s : State) (heard : List Byte) (time : Time) (weekday : Fin 7), s.clockRuns = true →
    s.pendingTimed = some (.setTime time weekday) →
      ∃ t, exec (.boundary heard) s = .next t ∧ t.timebase.time = time ∧ t.timebase.timeValid = true ∧
        (time.day.toNat + t.timebase.weekdayOffset.val) % 7 = weekday.val ∧
        t.timebase.restDays = s.timebase.restDays.filter (fun d => time.day ≤ d) ∧
        (t.timebase.profile = .rest ↔
          time.day ∈ s.timebase.restDays ∨ s.timebase.restWeekdays.getLsbD weekday.val = true) ∧
        t.timebase.slotClass = (s.timebase.slots t.timebase.profile).get (slotOf time) ∧
        t.timebase.lastSlice = s.timebase.slice.map (fun ended => ⟨ended, true⟩) ∧
        (∀ c, (t.channel c).interval = none ∧ (t.channel c).gap = none ∧ (t.channel c).event = none ∧
          (t.channel c).prev = none) ∧
        t.activity.episode = none ∧ t.authority.command = .done ⟨.ok, s.authority.collided, []⟩ ∧
        ∃ u base offers, exec (.boundary heard) s.withoutTimed = .next u ∧
          (∀ c, t.channel c = { u.channel c with interval := none, gap := none, event := none, prev := none }) ∧
          u.log = s.log.takeAll u.timebase.time base ∧ t.log = s.log.takeAll time offers ∧ BatchOrdered offers ∧
          offers.getLast? = some ⟨none, time, .config .authority
            (.time time weekday (s.timebase.slice.map Tag.time) s.timebase.timeValid)⟩ ∧
          (∀ c o, o.channel = some c →
            (o ∈ offers ↔ o ∈ base ∨ o ∈ forcedRecords c (u.channel c) .timeStep)) ∧
          ∀ o, o.body.kind = 4 → (o ∈ offers ↔ o ∈ forcedEpisode s.activity.episode .timeStep)

/-- The tag of every slice (R5, R7): its time and profile, its class by TIME_VALID and CALENDAR_ENABLE, and that class's
PLANT_PERMITTED; the slice that ended is kept behind it, voided exactly at a time step (R20). -/
def Obligations.TagsCarryTheCalendar : Prop :=
  ∀ (s : State) (heard : List Byte), s.clockRuns = true →
    ∃ t tag, exec (.boundary heard) s = .next t ∧ t.timebase.slice = some tag ∧ tag.time = t.timebase.time ∧
      tag.profile = t.timebase.profile ∧ tag.timeValid = t.timebase.timeValid ∧
      (t.timebase.timeValid = true ∧ s.timebase.calendarEnable = true → tag.cls = t.timebase.slotClass) ∧
      (t.timebase.timeValid = false ∨ s.timebase.calendarEnable = false → tag.cls = s.timebase.defaultClass) ∧
      tag.plant = (s.timebase.classes.get tag.cls).plant ∧
      t.timebase.lastSlice.map EndedSlice.tag = s.timebase.slice ∧
      (∀ ended, t.timebase.lastSlice = some ended →
        (ended.voided = true ↔ ∃ time weekday, s.pendingTimed = some (.setTime time weekday)))

/-- The boundaries that the table names by what comes about at them. Where the named thing comes about, the command is
the BOUNDARY with all its work, and the thing holds afterwards; where it does not, nothing changes (log entry 4).
DAY_ROLLOVER (R3), DAY_WRAP (R4), LINK_ACQUIRED (R34), HEAD_LOSS (R35), EPISODE_PAUSE_CLOSE (R113), EVENT_HOLD_CLOSE
(R122), EVENT_LONG_CLOSE (R123). -/
def Obligations.NamedBoundariesAreBoundaries : Prop :=
  ∀ (s : State) (heard : List Byte) (c : Channel) (ch : ChannelState), (frameAtBoundary heard s).channel c = ch →
    let rollsOver := s.clockRuns = true ∧ s.timebase.slice ≠ none ∧ s.timebase.time.sod.val = 691199 ∧
      ∀ time weekday, s.pendingTimed ≠ some (.setTime time weekday)
    let acquires := s.clockRuns = true ∧ s.timebase.lastSlice ≠ none ∧ ch.link = .search ∧ ch.acquire = 2 ∧
      interpret ch.held ≠ .missing
    let loses := s.clockRuns = true ∧ s.timebase.lastSlice ≠ none ∧ ch.link = .live ∧ interpret ch.held = .missing ∧
      s.settings.lossCount ≤ ch.miss + 1
    let pauses := s.clockRuns = true ∧ (∀ time weekday, s.pendingTimed ≠ some (.setTime time weekday)) ∧
      ∃ tag e, s.timebase.slice = some tag ∧ s.activity.episode = some e ∧ 7 ≤ e.pause ∧
        (tag.plant = true ∨ s.activity.highSeen &&& s.activity.enable = 0)
    let holdsOut := s.clockRuns = true ∧ ∃ r e, s.handedOn heard c = some r ∧ ch.event = some e ∧
      triggers e.lmaxThreshold e.peakThreshold r = false ∧ e.hold ≤ 1
    let growsLong := s.clockRuns = true ∧ ∃ r e, s.handedOn heard c = some r ∧ ch.event = some e ∧
      (triggers e.lmaxThreshold e.peakThreshold r = true ∨ 2 ≤ e.hold) ∧ 65535 ≤ e.age + 1
    ((rollsOver → ∃ t, exec (.dayRollover heard) s = .next t ∧ exec (.boundary heard) s = .next t ∧
        t.timebase.time = ⟨s.timebase.time.day + 1, 0⟩) ∧
      (¬rollsOver → exec (.dayRollover heard) s = .next s)) ∧
    ((rollsOver ∧ s.timebase.time.day = 65535#16 →
        ∃ t, exec (.dayWrap heard) s = .next t ∧ exec (.boundary heard) s = .next t ∧
          t.timebase.time = ⟨0, 0⟩ ∧ t.timebase.restDays = []) ∧
      (¬(rollsOver ∧ s.timebase.time.day = 65535#16) → exec (.dayWrap heard) s = .next s)) ∧
    ((acquires → ∃ t, exec (.linkAcquired c heard) s = .next t ∧ exec (.boundary heard) s = .next t ∧
        (s.pendingTimed = none → (t.channel c).link = .live)) ∧
      (¬acquires → exec (.linkAcquired c heard) s = .next s)) ∧
    ((loses → ∃ t, exec (.headLoss c heard) s = .next t ∧ exec (.boundary heard) s = .next t ∧
        (s.pendingTimed = none → (t.channel c).link = .lost)) ∧
      (¬loses → exec (.headLoss c heard) s = .next s)) ∧
    ((pauses → ∃ t, exec (.episodePauseClose heard) s = .next t ∧ exec (.boundary heard) s = .next t ∧
        t.activity.episode = none) ∧
      (¬pauses → exec (.episodePauseClose heard) s = .next s)) ∧
    ((holdsOut → ∃ t, exec (.eventHoldClose c heard) s = .next t ∧ exec (.boundary heard) s = .next t ∧
        (t.channel c).event = none) ∧
      (¬holdsOut → exec (.eventHoldClose c heard) s = .next s)) ∧
    ((growsLong → ∃ t, exec (.eventLongClose c heard) s = .next t ∧ exec (.boundary heard) s = .next t ∧
        (t.channel c).event = none) ∧
      (¬growsLong → exec (.eventLongClose c heard) s = .next s))

/-- What a boundary leaves as it stands, and its one batch (R152, R153): settings, calendar, routes, lock, edge and
attention masks, the site port's command and the authority port's while nothing is pending there do not change; the log
takes one batch at the new slice's time, in the order of the List of Batch Order, of at most 34 records: of a channel's
two INTERVAL records the one that closed by LENGTH or CLASS_CHANGE stands first. No place of the order is taken twice: a
channel offers at most one GAP, one EVENT, one INTERVAL of a natural and one of a forced close, and there is at most one
PROHIBITED and one CONFIG record. With nothing pending there is no CONFIG record and no forced close. CRC and STRAY move
only by the frame that the boundary ends, and but for a RESTART (R30). -/
def Obligations.BoundaryOffersOneBatchInOrder : Prop :=
  ∀ (s : State) (heard : List Byte), s.clockRuns = true →
    ∃ t, exec (.boundary heard) s = .next t ∧
      t =
        { s with
          timebase :=
            { t.timebase with
              workingSlots := s.timebase.workingSlots
              restSlots := s.timebase.restSlots
              restWeekdays := s.timebase.restWeekdays
              defaultClass := s.timebase.defaultClass
              calendarEnable := s.timebase.calendarEnable
              classes := s.timebase.classes }
          headLink := t.headLink
          channels := t.channels
          activity := { t.activity with level := s.activity.level, unseen := s.activity.unseen, enable := s.activity.enable }
          log := t.log
          site := { s.site with slots := t.site.slots }
          authority :=
            { s.authority with
              command := t.authority.command
              collided := t.authority.collided
              slots := t.authority.slots } } ∧
      (s.pendingTimed ≠ some .restart → t.site = s.site ∧ t.authority.slots = s.authority.slots) ∧
      (s.pendingTimed = none → t.authority = s.authority) ∧
      (s.pendingTimed ≠ some .restart →
        t.headLink.crc = (frameAtBoundary heard s).headLink.crc ∧
          t.headLink.stray = (frameAtBoundary heard s).headLink.stray) ∧
      (s.pendingTimed ≠ some .restart → s.headLink.driverOn = true ∨ s.headLink.inFrame ++ heard = [] →
        t.headLink.crc = s.headLink.crc ∧ t.headLink.stray = s.headLink.stray) ∧
      ∃ offers : List Offer, t.log = s.log.takeAll t.timebase.time offers ∧
        BatchOrdered offers ∧ offers.length ≤ 34 ∧ (∀ o ∈ offers, o.body.kind ≠ 6) ∧
        (s.pendingTimed = none → ∀ o ∈ offers, o.body.kind ≠ 5 ∧
          ∀ r, o.body = .interval r → r.cause = .length ∨ r.cause = .classChange)

/-! ### Accounts (chapters 4 to 7) -/

/-- The account of a slice result (R58, R60 to R63, R107, R132): to the interval that takes the slice in, the slice is
added by its kind, its allowance is formed anew, and the estimator takes a quiet LEVEL slice after the interval has read
the background. This holds of a channel with a gap run too; where the account conceals the run, the fields that the fill
changes (R86, R133) are those of another statement. -/
def Obligations.AccountsAddTheSlice : Prop :=
  ∀ (s : State) (heard : List Byte) (c : Channel) (ended : EndedSlice) (r : SliceResult) (iv : Interval),
    s.clockRuns = true → s.pendingTimed = none → s.timebase.lastSlice = some ended → s.handedOn heard c = some r →
      intervalFor (s.sliceContext ended.tag) (s.channel c).interval = iv →
        let eb := if s.settings.bgMin ≤ (s.channel c).background.nq then (s.channel c).background.eb else none
        let closes := ∃ old, (s.channel c).interval = some old ∧
          (old.elapsed = old.planned ∨ ended.tag.cls ≠ old.cls)
        let conceals := ∃ g l p overload, (s.channel c).gap = some g ∧ r = .level l p overload ∧
          g.length ≤ s.settings.concealMax ∧ g.before ≠ none ∧ (g.homeOpen = true ∧ ¬closes) ∧ g.atStart = false
        ∃ t iv', exec (.boundary heard) s = .next t ∧ (t.channel c).interval = some iv' ∧
          iv'.cls = iv.cls ∧ iv'.limit = iv.limit ∧ iv'.length = iv.length ∧ iv'.lmax = iv.lmax ∧
          iv'.peak = iv.peak ∧ iv'.cap = iv.cap ∧ iv'.openTime = iv.openTime ∧ iv'.planned = iv.planned ∧
          iv'.short = iv.short ∧ iv'.elapsed = iv.elapsed + 1 ∧
          iv'.activitySlices =
            iv.activitySlices + (if s.activity.newVerdict.map ActivityVerdict.active = some true then 1 else 0) ∧
          iv'.timeUnset = (iv.timeUnset || !ended.tag.timeValid) ∧ (t.channel c).prev = some r.prev ∧
          (∀ l p overload, r = .level l p overload →
            iv'.measured = iv.measured + 1 ∧ iv'.cal = iv.cal ∧
            iv'.lmaxSoFar = some (max (iv.lmaxSoFar.getD 0) l) ∧ iv'.peakMax = some (max (iv.peakMax.getD 0) p) ∧
            iv'.overload = (iv.overload || overload) ∧
            iv'.lmaxExceeded = (iv.lmaxExceeded || decide (iv.lmax ≤ l)) ∧
            iv'.peakExceeded = (iv.peakExceeded || decide (iv.peak ≤ p)) ∧
            (¬conceals →
              iv'.missing = iv.missing ∧ iv'.sumTot = iv.sumTot + energy l ∧ iv'.sumBg = iv.sumBg + eb.getD 0 ∧
              iv'.nbg = iv.nbg + (if eb = none then 0 else 1)) ∧
            (s.activity.newVerdict.map ActivityVerdict.quiet = some true →
              (t.channel c).background =
                ⟨some (backgroundStep (s.channel c).background.eb (energy l) s.settings.bgShift),
                  min 65535 ((s.channel c).background.nq + 1)⟩) ∧
            (s.activity.newVerdict.map ActivityVerdict.quiet ≠ some true →
              (t.channel c).background = (s.channel c).background)) ∧
          ((∀ l p overload, r ≠ .level l p overload) →
            iv'.measured = iv.measured ∧ iv'.missing = iv.missing + (if r = .missing then 1 else 0) ∧
            iv'.cal = iv.cal + (if r = .cal then 1 else 0) ∧ iv'.sumTot = iv.sumTot ∧ iv'.sumBg = iv.sumBg ∧
            iv'.nbg = iv.nbg ∧ iv'.lmaxSoFar = iv.lmaxSoFar ∧ iv'.peakMax = iv.peakMax ∧
            iv'.overload = iv.overload ∧ iv'.lmaxExceeded = iv.lmaxExceeded ∧ iv'.peakExceeded = iv.peakExceeded ∧
            (t.channel c).background = (s.channel c).background) ∧
          iv'.allowance = allowanceState iv.planned iv.limit iv'.sumTot iv'.sumBg s.settings.warnFraction ∧
          iv'.rs = allowanceSlices iv.planned iv.limit iv'.sumTot iv'.sumBg ∧
          (¬conceals →
            iv'.concealed = iv.concealed ∧
            iv'.exhaustedAt =
              if iv.exhaustedAt = none ∧ iv'.allowance = .exhausted then some (iv.elapsed + 1) else iv.exhaustedAt)

/-- The close check and the opening (R56, R57, R59, R77): at elapsed = P the interval closes with cause LENGTH,
otherwise with CLASS_CHANGE where the slice's class differs, and its record is the one INTERVAL record that the channel
offers; in either case, and where none was open, the slice opens an interval of its tag's class with the class table's
parameters, up to the next multiple of LENGTH. With neither, no INTERVAL record of the channel is offered and the slice
joins the open interval. The record of any close, for any cause, holds what the context and the assessment hold at the
close, with EVENTS_SUPPRESSED set where the event count is above EVENT_CAP (R76, R77); what the assessment holds is
another statement. -/
def Obligations.CloseCheckComesBeforeTheAdd : Prop :=
  (∀ (iv : Interval) (cause : Cause) (r : IntervalRecord), intervalRecord iv cause = r →
    r.cls = iv.cls ∧ r.cause = cause ∧ r.verdict = (assess iv).verdict ∧
      (r.short = iv.short ∧ r.overload = iv.overload ∧ r.lmaxExceeded = iv.lmaxExceeded ∧
        r.peakExceeded = iv.peakExceeded ∧ r.timeUnset = iv.timeUnset) ∧
      (r.eventsSuppressed = true ↔ iv.cap < iv.eventCount) ∧
      (r.invalid = (assess iv).invalid ∧ r.noBackground = (assess iv).noBackground ∧
        r.dominated = (assess iv).dominated) ∧
      (r.limit = iv.limit ∧ r.planned = iv.planned ∧ r.elapsed = iv.elapsed) ∧
      (r.measured = iv.measured ∧ r.concealed = iv.concealed ∧ r.missing = iv.missing ∧ r.cal = iv.cal ∧
        r.nbg = iv.nbg) ∧
      (r.ltot = (assess iv).ltot ∧ r.lbg = (assess iv).lbg ∧ r.lsite = (assess iv).lsite) ∧
      (r.lmax = iv.lmaxSoFar ∧ r.peakMax = iv.peakMax) ∧
      (r.eventCount = iv.eventCount ∧ r.activitySlices = iv.activitySlices ∧ r.exhaustedAt = iv.exhaustedAt)) ∧
  ∀ (s : State) (heard : List Byte) (c : Channel) (ended : EndedSlice) (r : SliceResult),
    s.clockRuns = true → s.pendingTimed = none → s.timebase.lastSlice = some ended → s.handedOn heard c = some r →
      let k := s.timebase.classes.get ended.tag.cls
      let sod := ended.tag.time.sod.val
      let opened (iv' : Interval) := iv'.cls = ended.tag.cls ∧ iv'.limit = k.limit ∧ iv'.length = k.length ∧
        iv'.lmax = k.lmax ∧ iv'.peak = k.peak ∧ iv'.cap = s.settings.eventCap ∧ iv'.openTime = ended.tag.time ∧
        iv'.planned = (sod / (k.length.minutes * 480) + 1) * (k.length.minutes * 480) - sod ∧
        (iv'.short = true ↔ iv'.planned < k.length.minutes * 480) ∧ iv'.elapsed = 1 ∧
        1 ≤ iv'.planned ∧ iv'.planned ≤ k.length.minutes * 480 ∧ sod + iv'.planned ≤ 691200
      ∃ t iv' offers, exec (.boundary heard) s = .next t ∧ (t.channel c).interval = some iv' ∧
        t.log = s.log.takeAll t.timebase.time offers ∧ BatchOrdered offers ∧
        ((s.channel c).interval = none →
          opened iv' ∧ ∀ o ∈ offers, o.channel = some c → o.body.kind ≠ 1) ∧
        ∀ iv, (s.channel c).interval = some iv →
          (iv.elapsed = iv.planned →
            opened iv' ∧ ∀ o, o.channel = some c → o.body.kind = 1 →
              (o ∈ offers ↔ o = ⟨some c, iv.openTime, .interval (intervalRecord iv .length)⟩)) ∧
          (iv.elapsed ≠ iv.planned → ended.tag.cls ≠ iv.cls →
            opened iv' ∧ ∀ o, o.channel = some c → o.body.kind = 1 →
              (o ∈ offers ↔ o = ⟨some c, iv.openTime, .interval (intervalRecord iv .classChange)⟩)) ∧
          (iv.elapsed ≠ iv.planned → ended.tag.cls = iv.cls →
            iv'.openTime = iv.openTime ∧ iv'.elapsed = iv.elapsed + 1 ∧
              ∀ o ∈ offers, o.channel = some c → o.body.kind ≠ 1)

/-- Gap runs (R82 to R89, R91): a MISSING result starts or extends the run; CAL ends it; LEVEL ends it, concealed into
its interval where all four conditions hold, in their order, and otherwise with a GAP record from 8 slices on, and with
none below that. A concealing account recomputes the allowance after the add and again after the fill, and either may be
the first EXHAUSTED of the interval (R132 to R134). What an account does besides is another statement. -/
def Obligations.GapRunsFollowTheMissingSlices : Prop :=
  ∀ (s : State) (heard : List Byte) (c : Channel) (ended : EndedSlice) (r : SliceResult) (iv : Interval),
    s.clockRuns = true → s.pendingTimed = none → s.timebase.lastSlice = some ended → s.handedOn heard c = some r →
      intervalFor (s.sliceContext ended.tag) (s.channel c).interval = iv →
        let closes := ∃ old, (s.channel c).interval = some old ∧
          (old.elapsed = old.planned ∨ ended.tag.cls ≠ old.cls)
        let eb := if s.settings.bgMin ≤ (s.channel c).background.nq then (s.channel c).background.eb else none
        ∃ t iv' offers, exec (.boundary heard) s = .next t ∧ (t.channel c).interval = some iv' ∧
          t.log = s.log.takeAll t.timebase.time offers ∧ BatchOrdered offers ∧
          ((s.channel c).gap = none → r ≠ .missing → (t.channel c).gap = none) ∧
          ((s.channel c).gap = none ∨ r = .missing → ∀ o ∈ offers, o.channel = some c → o.body.kind ≠ 3) ∧
          ((s.channel c).gap = none → r = .missing →
            ∃ before, (t.channel c).gap =
              some ⟨ended.tag.time, ended.tag.time, 1, before, iv.openTime, true, decide (iv.elapsed + 1 = 1)⟩ ∧
              ∀ e, before = some e ↔ (s.channel c).prev = some (.level e)) ∧
          ∀ g, (s.channel c).gap = some g →
            let run : GapRun := { g with homeOpen := decide (g.homeOpen = true ∧ ¬closes) }
            let record (cause : Cause) (refusal : Option ConcealRefusal) : Offer :=
              ⟨some c, g.start, .gap ⟨g.start, g.last, g.length, cause, refusal, g.before.isSome, g.homeOpenTime⟩⟩
            let refusal : Option ConcealRefusal :=
              if s.settings.concealMax < g.length then some .tooLong
              else if g.before = none then some .noLevelBefore
              else if run.homeOpen = false then some .intervalClosed
              else if g.atStart = true then some .intervalStart
              else none
            (r = .missing →
              (t.channel c).gap =
                some { run with last := ended.tag.time, length := min 4294967295 (g.length + 1) }) ∧
            (r = .cal →
              (t.channel c).gap = none ∧ iv'.missing = iv.missing ∧ iv'.concealed = iv.concealed ∧
              (8 ≤ g.length → record .cal none ∈ offers) ∧
              (g.length < 8 → ∀ o ∈ offers, o.channel = some c → o.body.kind ≠ 3)) ∧
            ∀ l p overload, r = .level l p overload →
              (t.channel c).gap = none ∧
              (∀ why, refusal = some why →
                iv'.missing = iv.missing ∧ iv'.concealed = iv.concealed ∧ iv'.sumTot = iv.sumTot + energy l ∧
                (8 ≤ g.length → record .level (some why) ∈ offers) ∧
                (g.length < 8 → ∀ o ∈ offers, o.channel = some c → o.body.kind ≠ 3)) ∧
              (refusal = none →
                iv'.missing = iv.missing - g.length ∧ iv'.concealed = iv.concealed + g.length ∧
                iv'.elapsed = iv.elapsed + 1 ∧
                iv'.sumTot = iv.sumTot + energy l + g.length * ((g.before.getD 0 + energy l) / 2) ∧
                iv'.sumBg = iv.sumBg + eb.getD 0 + g.length * eb.getD 0 ∧
                iv'.nbg = iv.nbg + (if eb = none then 0 else 1 + g.length) ∧
                iv'.rs = allowanceSlices iv.planned iv.limit iv'.sumTot iv'.sumBg ∧
                iv'.allowance = allowanceState iv.planned iv.limit iv'.sumTot iv'.sumBg s.settings.warnFraction ∧
                (iv'.exhaustedAt =
                  if iv.exhaustedAt = none ∧ (iv'.allowance = .exhausted ∨
                      allowanceState iv.planned iv.limit (iv.sumTot + energy l) (iv.sumBg + eb.getD 0)
                        s.settings.warnFraction = .exhausted) then some (iv.elapsed + 1)
                  else iv.exhaustedAt) ∧
                ∀ o ∈ offers, o.channel = some c → o.body.kind ≠ 3)

/-- Impulsive events (R118 to R123, R126, R127): in IDLE a triggering slice opens an event in the interval it was added
to, and it is suppressed where the interval's count is above its EVENT_CAP; in OPEN a triggering slice on the event's own
thresholds folds the pending values in, any other counts the hold down; the event closes by HOLD, else by LONG, with a
record unless it is suppressed. Where no event closes, the channel offers no EVENT record. -/
def Obligations.EventsOpenHoldAndClose : Prop :=
  ∀ (s : State) (heard : List Byte) (c : Channel) (ended : EndedSlice) (r : SliceResult) (iv : Interval),
    s.clockRuns = true → s.pendingTimed = none → s.timebase.lastSlice = some ended → s.handedOn heard c = some r →
      intervalFor (s.sliceContext ended.tag) (s.channel c).interval = iv →
        let hits (lmax peak : Nat) := ∃ l p overload, r = .level l p overload ∧ (lmax ≤ l ∨ peak ≤ p)
        ∃ t iv' offers, exec (.boundary heard) s = .next t ∧ (t.channel c).interval = some iv' ∧
          t.log = s.log.takeAll t.timebase.time offers ∧ BatchOrdered offers ∧
          ((s.channel c).event = none → ∀ o ∈ offers, o.channel = some c → o.body.kind ≠ 2) ∧
          ((s.channel c).event = none → ¬hits iv.lmax iv.peak →
            (t.channel c).event = none ∧ iv'.eventCount = iv.eventCount) ∧
          (∀ l p overload, (s.channel c).event = none → r = .level l p overload → iv.lmax ≤ l ∨ iv.peak ≤ p →
            iv'.eventCount = min 65535 (iv.eventCount + 1) ∧
            (t.channel c).event =
              some ⟨ended.tag.time, ended.tag.time, 1, 1, s.settings.eventHold, energy l, l, p, none, iv.lmax, iv.peak,
                iv.cls, iv.openTime, decide (iv.cap < iv'.eventCount)⟩) ∧
          ∀ e, (s.channel c).event = some e →
            let record (e : Event) (cause : Cause) : Offer :=
              ⟨some c, e.start, .event ⟨e.start, e.lastTrigger, e.duration, e.homeClass, e.homeOpenTime,
                e.lmaxThreshold, e.peakThreshold, e.lmax, e.peak, lconv (e.sum / 8), cause⟩⟩
            iv'.eventCount = iv.eventCount ∧
            (∀ l p overload, r = .level l p overload → e.lmaxThreshold ≤ l ∨ e.peakThreshold ≤ p →
              let q : Pending := e.pending.getD ⟨0, 0, 0⟩
              let e' : Event :=
                { e with
                  lastTrigger := ended.tag.time
                  age := e.age + 1
                  duration := e.age + 1
                  hold := s.settings.eventHold
                  sum := e.sum + q.energy + energy l
                  lmax := max (max e.lmax q.lmax) l
                  peak := max (max e.peak q.peak) p
                  pending := none }
              (e.age + 1 < 65535 → (t.channel c).event = some e' ∧
                ∀ o ∈ offers, o.channel = some c → o.body.kind ≠ 2) ∧
              (65535 ≤ e.age + 1 → (t.channel c).event = none ∧
                (e.suppressed = false → record e' .long ∈ offers) ∧
                (e.suppressed = true → ∀ o ∈ offers, o.channel = some c → o.body.kind ≠ 2))) ∧
            (¬hits e.lmaxThreshold e.peakThreshold →
              (2 ≤ e.hold → e.age + 1 < 65535 → (∀ o ∈ offers, o.channel = some c → o.body.kind ≠ 2) ∧
                ∃ pending, (t.channel c).event =
                    some { e with age := e.age + 1, hold := e.hold - 1, pending := pending } ∧
                  ((∀ l p overload, r ≠ .level l p overload) → pending = e.pending) ∧
                  ∀ l p overload, r = .level l p overload →
                    pending = some ⟨(e.pending.map Pending.energy).getD 0 + energy l,
                      max ((e.pending.map Pending.lmax).getD 0) l, max ((e.pending.map Pending.peak).getD 0) p⟩) ∧
              (e.hold ≤ 1 → (t.channel c).event = none ∧
                (e.suppressed = false → record e .hold ∈ offers) ∧
                (e.suppressed = true → ∀ o ∈ offers, o.channel = some c → o.body.kind ≠ 2)) ∧
              (2 ≤ e.hold → 65535 ≤ e.age + 1 → (t.channel c).event = none ∧
                (e.suppressed = false → record e .long ∈ offers) ∧
                (e.suppressed = true → ∀ o ∈ offers, o.channel = some c → o.body.kind ≠ 2)))

/-! ### The slice end (chapter 6) -/

/-- The activity verdict (R98, R105, R111) and the quiet timer (R103, R104): lines, active, quiet, prohibited and voided
of the slice that ended; the marks of the slice that starts are those of the lines that are high (R95), but for a line
whose present high the device has not seen (DEDUCED: log entry 19). -/
def Obligations.SliceEndsAreJudged : Prop :=
  ∀ (s : State) (heard : List Byte) (ended : Tag), s.clockRuns = true → s.timebase.slice = some ended →
    ∃ t v, exec (.boundary heard) s = .next t ∧ t.activity.newVerdict = some v ∧
      t.activity.oldVerdict = s.activity.newVerdict ∧ v.slice = ended.time ∧
      (∀ l, member v.lines l = (member s.activity.highSeen l && member s.activity.enable l)) ∧
      v.pulsed = s.activity.pulse ∧
      (v.active = true ↔ (∃ l, member v.lines l = true) ∨ s.activity.pulse = true) ∧
      (v.quiet = true ↔ s.activity.quiet = 0 ∧ v.active = false) ∧
      (v.voided = true ↔ ∃ time weekday, s.pendingTimed = some (.setTime time weekday)) ∧
      (v.prohibited = true ↔ v.voided = false ∧ ended.plant = false ∧ ∃ l, member v.lines l = true) ∧
      (s.pendingTimed = some .restart → t.activity.quiet = s.settings.quietHold) ∧
      (s.pendingTimed ≠ some .restart →
        t.activity.quiet = if v.active = true then s.settings.quietHold else s.activity.quiet - 1) ∧
      t.activity.pulse = false ∧
      ∀ l, member t.activity.highSeen l = (member s.activity.level l && !member s.activity.unseen l)

/-- The prohibited episode (R112, R113, R115): a prohibited slice opens or extends it, any other raises its pending
count, and the eighth of them in a row closes it with cause PAUSE and its record. Where none closes, no PROHIBITED record
is offered. -/
def Obligations.EpisodesRunAcrossShortPauses : Prop :=
  ∀ (s : State) (heard : List Byte) (ended : Tag), s.clockRuns = true → s.timebase.slice = some ended →
    s.pendingTimed = none →
      let lines := s.activity.highSeen &&& s.activity.enable
      ∃ t offers, exec (.boundary heard) s = .next t ∧ t.log = s.log.takeAll t.timebase.time offers ∧
        BatchOrdered offers ∧
        (s.activity.episode = none → ∀ o ∈ offers, o.body.kind ≠ 4) ∧
        (s.activity.episode = none → ended.plant = false → lines ≠ 0 →
          t.activity.episode = some ⟨ended.time, ended.time, 1, 1, 0, lines, ended.cls⟩) ∧
        (s.activity.episode = none → ended.plant = true ∨ lines = 0 → t.activity.episode = none) ∧
        ∀ e, s.activity.episode = some e →
          (ended.plant = false → lines ≠ 0 →
            t.activity.episode =
              some { e with
                last := ended.time
                span := min 4294967295 (e.span + (e.pause + 1))
                count := min 4294967295 (e.count + 1)
                pause := 0
                lines := e.lines ||| lines } ∧ ∀ o ∈ offers, o.body.kind ≠ 4) ∧
          (ended.plant = true ∨ lines = 0 →
            (e.pause < 7 → t.activity.episode = some { e with pause := e.pause + 1 } ∧
              ∀ o ∈ offers, o.body.kind ≠ 4) ∧
            (7 ≤ e.pause → t.activity.episode = none ∧
              ⟨none, e.start, .prohibited ⟨e.start, e.last, e.span, e.count, e.lines, e.cls, .pause⟩⟩ ∈ offers))

/-! ### Timed commands at their boundary -/

/-- CHANNEL_ON (R38), CHANNEL_OFF (R39) and CUT (R66, R67) at their boundary, each completing with OK, with COLLIDED
copied into the response and cleared (R175, R179). The forced closes of CHANNEL_OFF and CUT are made after the accounts
of the boundary and offer their records with that cause (R65, R69, R90, R125): beside them and the CONFIG record the
batch holds what the same boundary offers with nothing pending, and every other channel is as after that. The channel
itself keeps all that the rules do not name: CHANNEL_ON keeps LATE and DUP (R30), CHANNEL_OFF them and the last result
that its deadline leaves (R39), and a CUT everything but the interval, the event and the home interval of an open gap run
(R67). The activity monitor, and with it an open episode, is as with nothing pending (R114). The link state that a
CHANNEL_OFF record names is the model's reading (DEDUCED: log entry 17). -/
def Obligations.TimedCommandsTakeEffectAtTheBoundary : Prop :=
  ∀ (s : State) (heard : List Byte), s.clockRuns = true →
    ∃ u base, exec (.boundary heard) s.withoutTimed = .next u ∧ u.log = s.log.takeAll u.timebase.time base ∧
      (∀ c, s.pendingTimed = some (.channelOn c) →
        ∃ t, exec (.boundary heard) s = .next t ∧
          t.channel c =
            { u.channel c with
              link := .search
              acquire := 0
              miss := 0
              held := none
              lastResult := none
              prev := none
              background := ⟨none, 0⟩ } ∧ t.activity = u.activity ∧ t.authority.collided = false ∧
          t.authority.command = .done ⟨.ok, s.authority.collided, put1 c.val ++ put1 1⟩ ∧
          ∃ offers, t.log = s.log.takeAll t.timebase.time offers ∧ BatchOrdered offers ∧
            offers.getLast? = some ⟨some c, t.timebase.time, .config .authority (.channelOn .search)⟩ ∧
            (∀ d, d ≠ c → t.channel d = u.channel d) ∧ ∀ o, o.body.kind ≠ 5 → (o ∈ offers ↔ o ∈ base)) ∧
      (∀ c, s.pendingTimed = some (.channelOff c) →
        ∃ t, exec (.boundary heard) s = .next t ∧
          t.channel c =
            { u.channel c with
              link := .off
              acquire := 0
              miss := 0
              held := none
              interval := none
              gap := none
              event := none
              prev := none
              background := ⟨none, 0⟩ } ∧
          (t.channel c).late = ((frameAtBoundary heard s).channel c).late ∧
          (t.channel c).dup = ((frameAtBoundary heard s).channel c).dup ∧ t.activity = u.activity ∧
          t.authority.collided = false ∧
          t.authority.command = .done ⟨.ok, s.authority.collided, put1 c.val ++ put1 0⟩ ∧
          ∃ offers, t.log = s.log.takeAll t.timebase.time offers ∧ BatchOrdered offers ∧
            offers.getLast? =
              some ⟨some c, t.timebase.time, .config .authority (.channelOff (u.channel c).link)⟩ ∧
            (∀ d, d ≠ c → t.channel d = u.channel d) ∧
            ∀ o, o.body.kind ≠ 5 → (o ∈ offers ↔ o ∈ base ∨ o ∈ forcedRecords c (u.channel c) .channelOff)) ∧
      ∀ mask, s.pendingTimed = some (.cut mask) →
        ∃ t closed, exec (.boundary heard) s = .next t ∧ t.activity = u.activity ∧ t.authority.collided = false ∧
          t.authority.command = .done ⟨.ok, s.authority.collided, [mask, closed]⟩ ∧
          (∀ c, member closed c = true ↔ member mask c = true ∧ (s.channel c).link ≠ .off ∧
            ((s.channel c).interval ≠ none ∨ s.handedOn heard c ≠ none)) ∧
          (∀ c, member closed c = true →
            t.channel c =
              { u.channel c with
                interval := none
                event := none
                gap := (u.channel c).gap.map fun g => { g with homeOpen := false } }) ∧
          ∃ offers, t.log = s.log.takeAll t.timebase.time offers ∧ BatchOrdered offers ∧
            (∀ c, member closed c = true →
              ∃ (time : Time) (r : IntervalRecord), r.cause = .cut ∧ ⟨some c, time, .interval r⟩ ∈ offers) ∧
            offers.getLast? = some ⟨none, t.timebase.time, .config .authority (.cut mask closed)⟩ ∧
            (∀ c, member closed c = false → t.channel c = u.channel c) ∧
            ∀ o, o.body.kind ≠ 5 →
              (o ∈ offers ↔ o ∈ base ∨ ∃ c, member closed c = true ∧
                o ∈ forcedRecords c { u.channel c with gap := none } .cut)

/-- RESTART at its boundary (R182, R40, R70, R104, R106, R114): every channel that is not OFF is in SEARCH with no open
work, every channel keeps the last result that the deadline leaves, the counters are 0, Q is QUIET_HOLD, the snapshot
slots of both ports are empty, and the response and the CONFIG record, which stands last, carry N as it stood before the
batch; settings, calendar, routes, masks and flags stay. The closes are made after the accounts and the slice end of the
boundary, and each offers its record with cause RESTART (R65, R90, R114, R125): beside them the batch holds what the
same boundary offers with nothing pending. -/
def Obligations.RestartClosesOpenWorkAndKeepsTheSettings : Prop :=
  ∀ (s : State) (heard : List Byte), s.clockRuns = true → s.pendingTimed = some .restart →
    ∃ t u base, exec (.boundary heard) s = .next t ∧
      exec (.boundary heard) s.withoutTimed = .next u ∧ u.log = s.log.takeAll u.timebase.time base ∧
      (∀ c, ((t.channel c).link = if (s.channel c).link = .off then .off else .search) ∧
        (t.channel c).lastResult = (u.channel c).lastResult ∧
        (t.channel c).acquire = 0 ∧ (t.channel c).miss = 0 ∧ (t.channel c).late = 0 ∧ (t.channel c).dup = 0 ∧
        (t.channel c).interval = none ∧ (t.channel c).gap = none ∧ (t.channel c).event = none ∧
        (t.channel c).prev = none ∧ (t.channel c).background = ⟨none, 0⟩ ∧
        (t.channel c).held = (u.channel c).held) ∧
      t.headLink.crc = 0 ∧ t.headLink.stray = 0 ∧ t.activity.quiet = s.settings.quietHold ∧
      t.activity.episode = none ∧
      (∀ p c, (t.port p).slots.get c = none) ∧
      (∀ p, (t.port p).attention = (s.port p).attention ∧ (t.port p).rise = (s.port p).rise ∧
        (t.port p).fall = (s.port p).fall ∧ (t.port p).edges = (s.port p).edges) ∧
      t.site.command = s.site.command ∧ t.settings = s.settings ∧ t.matrix = s.matrix ∧
      t.authority.command = .done ⟨.ok, s.authority.collided, put4 s.log.next.toNat⟩ ∧
      ∃ offers, t.log = s.log.takeAll t.timebase.time offers ∧ BatchOrdered offers ∧
        offers.getLast? = some ⟨none, t.timebase.time, .config .authority (.restart s.log.next)⟩ ∧
        (∀ c o, o.channel = some c →
          (o ∈ offers ↔ o ∈ base ∨ o ∈ forcedRecords c (u.channel c) .restart)) ∧
        ∀ o, o.body.kind = 4 → (o ∈ offers ↔ o ∈ base ∨ o ∈ forcedEpisode u.activity.episode .restart)

/-! ### Level arithmetic and assessment (chapters 3 and 4) -/

/-- The scale (R41, R42, R43): the energy of a level code is T[L mod 100] × 10^(L div 100 − 2), and T[f] is
10000 × 10^(f/100) rounded to the nearest integer, that is 2 T[f] − 1 < 2 × 10000 × 10^(f/100) < 2 T[f] + 1, both sides
raised to the power 100. E is strictly increasing within 10000 to 10^16, Lconv inverts it on 200 to 1400 and rounds
down: a level from 200 on, also above 1400, is at or below Lconv(m) exactly when T[L mod 100] × 10^(L div 100 − 2) is not
above m; below 10000 Lconv is 200, at 2^80 − 1 it is 2208, and the largest exposure level is 1791 (R50); Lconv never
falls. -/
def Obligations.LconvInvertsTheEnergyScale : Prop :=
  (∃ T : Nat → Nat,
    (∀ f, f < 100 → (2 * T f - 1) ^ 100 < 2 ^ 100 * 10 ^ (400 + f) ∧ 2 ^ 100 * 10 ^ (400 + f) < (2 * T f + 1) ^ 100) ∧
    (∀ l : Nat, 200 ≤ l → l ≤ 1400 → energy l = T (l % 100) * 10 ^ (l / 100 - 2)) ∧
    ∀ l m : Nat, 200 ≤ l → 10000 ≤ m → m < 2 ^ 80 → (l ≤ lconv m ↔ T (l % 100) * 10 ^ (l / 100 - 2) ≤ m)) ∧
  (∀ m : Nat, m < 10000 → lconv m = 200) ∧ lconv (2 ^ 80 - 1) = 2208 ∧ lconv (65535 * 10 ^ 16 / 8) = 1791 ∧
  (∀ l k : Nat, 200 ≤ l → l < k → k ≤ 1400 → 10000 ≤ energy l ∧ energy l < energy k ∧ energy k ≤ 10 ^ 16) ∧
  (∀ l : Nat, 200 ≤ l → l ≤ 1400 → lconv (energy l) = l) ∧
  (∀ l m : Nat, 200 ≤ l → l ≤ 1400 → 10000 ≤ m → m < 2 ^ 80 → (l ≤ lconv m ↔ energy l ≤ m)) ∧
  ∀ m n : Nat, m ≤ n → n < 2 ^ 80 → lconv m ≤ lconv n

/-- The background step (R47): the first update takes E, a later one Eb − (Eb div 2^s) + (E div 2^s), which lies between
the old average and the new energy. The allowance (R51, R52), with A = P × E(Llim), S the difference of the sums, 0 where
it is negative, and R = A − S, 0 from A on: the allowance slices are R div E(Llim) and never exceed P; the state is
EXHAUSTED exactly at S ≥ A, else WARNING exactly where R × 256 is below A × WARN_FRACTION, else CLEAR, so never WARNING at
fraction 0 and CLEAR with no site energy. A corrected site level lies at or below the total level and at or above the
floor (R45, R48). -/
def Obligations.LevelQuantitiesKeepTheirBounds : Prop :=
  (∀ b e shift : Nat, backgroundStep none e shift = e ∧
    backgroundStep (some b) e shift = b - b / 2 ^ shift + e / 2 ^ shift ∧
    min b e ≤ backgroundStep (some b) e shift ∧ backgroundStep (some b) e shift ≤ max b e) ∧
  (∀ planned limit tot bg fraction : Nat,
    let allowed := planned * energy limit
    let site := if bg ≤ tot then tot - bg else 0
    let remaining := if site < allowed then allowed - site else 0
    allowanceSlices planned limit tot bg = remaining / energy limit ∧
    allowanceSlices planned limit tot bg ≤ planned ∧
    (allowanceState planned limit tot bg fraction = .exhausted ↔ allowed ≤ site) ∧
    (allowanceState planned limit tot bg fraction = .warning ↔
      site < allowed ∧ remaining * 256 < allowed * fraction) ∧
    (allowanceState planned limit tot bg fraction = .exhausted → allowanceSlices planned limit tot bg = 0) ∧
    allowanceState planned limit tot bg 0 ≠ .warning ∧
    (tot ≤ bg → 1 ≤ planned → fraction ≤ 255 → allowanceState planned limit tot bg fraction = .clear)) ∧
  ∀ meanTot meanBg : Nat, inScale meanTot → inScale meanBg →
    let d : Int := (lconv meanTot : Int) - (lconv meanBg : Int)
    (100 ≤ d → siteLevel (correctionBand (lconv meanTot) (lconv meanBg)) meanTot meanBg = some (lconv meanTot)) ∧
    (d ≤ 29 → siteLevel (correctionBand (lconv meanTot) (lconv meanBg)) meanTot meanBg = none) ∧
    (30 ≤ d → d ≤ 99 → meanBg < meanTot ∧
      ∃ l, siteLevel (correctionBand (lconv meanTot) (lconv meanBg)) meanTot meanBg = some l ∧
        l = lconv (meanTot - meanBg) ∧ 200 ≤ l ∧ l ≤ lconv meanTot)

/-- The assessment at the close (R71 to R75): INVALID below three quarters; judged on Ltot without a background for at
least half; otherwise corrected by its band and judged on Lsite, or INDETERMINATE. -/
def Obligations.AssessmentGivesTheVerdict : Prop :=
  ∀ iv : Interval,
    let nacc := iv.measured + iv.concealed
    let base := iv.elapsed - iv.cal
    let ltot := lconv (iv.sumTot / nacc)
    let lbg := lconv (iv.sumBg / iv.nbg)
    let d : Int := (ltot : Int) - (lbg : Int)
    let usable := iv.nbg * 2 ≥ nacc
    ((base = 0 ∨ nacc * 4 < base * 3) →
      assess iv = ⟨.invalid, if nacc = 0 then none else some ltot, if iv.nbg = 0 then none else some lbg, none,
        true, false, false⟩) ∧
    (base ≠ 0 → base * 3 ≤ nacc * 4 →
      (¬usable →
        assess iv = ⟨if ltot ≤ iv.limit then .compliant else .exceeded, some ltot, none, some ltot,
          false, true, false⟩) ∧
      (usable → 100 ≤ d →
        assess iv = ⟨if ltot ≤ iv.limit then .compliant else .exceeded, some ltot, some lbg, some ltot,
          false, false, false⟩) ∧
      (usable → 30 ≤ d → d ≤ 99 →
        let lsite := lconv (iv.sumTot / nacc - iv.sumBg / iv.nbg)
        assess iv = ⟨if lsite ≤ iv.limit then .compliant else .exceeded, some ltot, some lbg, some lsite,
          false, false, false⟩) ∧
      (usable → d ≤ 29 →
        assess iv = ⟨if ltot ≤ iv.limit then .compliant else .indeterminate, some ltot, some lbg, none,
          false, false, true⟩))

/-! ### Invariants that every step keeps -/

/-- The rest-day list holds at most 16 day numbers, in increasing order, without duplicates, none earlier than the
current day: every step keeps it so (R12). -/
def Obligations.RestDayListStaysInOrder : Prop :=
  ∀ s t : State, s.timebase.RestDaysOk → step s = .next t → t.timebase.RestDaysOk

/-- Class table, settings and quiet timer stay in their stored ranges, CONCEAL_MAX below LOSS_COUNT, and so do the
acquire and miss counts and the counters CRC, STRAY, LATE and DUP (R16, R30, R33, R92, R103, R109, R116). -/
def Obligations.SettingsAndCountsStayInRange : Prop :=
  ∀ s t : State, s.SettingsOk → s.LinksOk → step s = .next t → t.SettingsOk ∧ t.LinksOk

/-- For every open interval, measured + concealed + missing + cal = elapsed, and elapsed ≤ P ≤ 28800; a run that can be
concealed lies in its interval, an open event has an interval, an OFF channel holds nothing: every step keeps it so
(R54, R55, R80, R86, R116, R125). -/
def Obligations.CountsOfOpenIntervalsAddUp : Prop :=
  ∀ s t : State, s.WorkOk → step s = .next t → t.WorkOk

/-- No accumulator ever exceeds 2^80 − 1: its bound is kept by every step, together with the bounds of the energies that
enter it (R45, R46, R47). -/
def Obligations.AccumulatorsStayWithin80Bits : Prop :=
  ∀ s t : State, s.EnergiesOk → step s = .next t →
    t.EnergiesOk ∧
      (∀ c iv, (t.channel c).interval = some iv → iv.sumTot < 2 ^ 80 ∧ iv.sumBg < 2 ^ 80) ∧
      ∀ c e, (t.channel c).event = some e → e.sum + e.pendingEnergy < 2 ^ 80

/-- The state after power-on meets every invariant stated here. -/
def Obligations.ResetMeetsTheInvariants : Prop :=
  State.reset.timebase.RestDaysOk ∧ State.reset.SettingsOk ∧ State.reset.LinksOk ∧ State.reset.log.Ok ∧
    State.reset.EnergiesOk ∧ State.reset.PortsOk ∧ State.reset.site.command.Fits ∧
    State.reset.authority.command.Fits ∧
    State.reset.log.cursor = State.reset.log.next - BitVec.ofNat 32 State.reset.log.lag

end
end

