-- ==== Sys2Proof/Laws/Operands.lean ====
section
/-! SUPPORT. Laws of the operand forms: a field that is written reads back, and every code names what it was written
from. -/

namespace Sys2Proof.Machine

/-! ### Fields written and read (R194) -/

@[simp] theorem length_put1 (n : Nat) : (put1 n).length = 1 := rfl
@[simp] theorem length_put2 (n : Nat) : (put2 n).length = 2 := rfl
@[simp] theorem length_put3 (n : Nat) : (put3 n).length = 3 := rfl
@[simp] theorem length_put4 (n : Nat) : (put4 n).length = 4 := rfl
@[simp] theorem length_putTime (t : Time) : (putTime t).length = 5 := rfl

/-- An optional field is as wide as a present one. -/
theorem length_putOpt {α : Type} {width : Nat} {put : α → List Byte} (h : ∀ a, (put a).length = width)
    (o : Option α) : (putOpt width put o).length = width := by
  cases o <;> simp [putOpt, h]

@[simp] theorem length_put1? (o : Option Nat) : (put1? o).length = 1 := length_putOpt length_put1 o
@[simp] theorem length_put2? (o : Option Nat) : (put2? o).length = 2 := length_putOpt length_put2 o
@[simp] theorem length_put4? (o : Option Nat) : (put4? o).length = 4 := length_putOpt length_put4 o
@[simp] theorem length_putTime? (o : Option Time) : (putTime? o).length = 5 := length_putOpt length_putTime o

/-- The first byte of a train. -/
@[simp] theorem argByte_zero (b : Byte) (l : List Byte) : argByte (b :: l) 0 = b := by simp [argByte]

/-- A later byte of a train. -/
@[simp] theorem argByte_succ (b : Byte) (l : List Byte) (i : Nat) : argByte (b :: l) (i + 1) = argByte l i := by
  simp [argByte]

@[simp] theorem arg1_zero (b : Byte) (l : List Byte) : arg1 (b :: l) 0 = b.toNat := by simp [arg1]

@[simp] theorem arg1_succ (b : Byte) (l : List Byte) (i : Nat) : arg1 (b :: l) (i + 1) = arg1 l i := by
  simp [arg1]

theorem arg1_lt (l : List Byte) (i : Nat) : arg1 l i < 256 := (argByte l i).isLt

theorem arg2_lt (l : List Byte) (i : Nat) : arg2 l i < 65536 := by
  have h1 := arg1_lt l i
  have h2 := arg1_lt l (i + 1)
  simp only [arg2]
  omega

theorem arg2_append_put2 (l : List Byte) (n : Nat) (h : n < 65536) : arg2 (put2 n ++ l) 0 = n := by
  simp [arg2, put2]
  omega

theorem arg3_append_put3 (l : List Byte) (n : Nat) (h : n < 16777216) : arg3 (put3 n ++ l) 0 = n := by
  simp [arg3, arg2, put3]
  omega

theorem arg4_append_put4 (l : List Byte) (n : Nat) (h : n < 4294967296) : arg4 (put4 n ++ l) 0 = n := by
  simp [arg4, arg2, put4]
  omega

/-! ### Numbers and codes -/

theorem finOf_eq_some {n v : Nat} {i : Fin n} : finOf n v = some i ↔ v = i.val := by
  unfold finOf
  split
  · rename_i h
    simp [Fin.ext_iff]
  · rename_i h
    have := i.isLt
    simp
    omega

theorem finOf_eq_none {n v : Nat} : finOf n v = none ↔ n ≤ v := by
  unfold finOf
  split <;> simp <;> omega

@[simp] theorem finOf_val {n : Nat} (i : Fin n) : finOf n i.val = some i := finOf_eq_some.2 rfl

theorem boolOf_eq_some {n : Nat} {b : Bool} : boolOf n = some b ↔ n = boolCode b := by
  unfold boolOf boolCode
  cases b <;> split <;> simp_all

theorem boolOf_eq_none {n : Nat} : boolOf n = none ↔ 2 ≤ n := by
  unfold boolOf
  split
  · simp; omega
  · split <;> simp <;> omega

theorem profileOf_eq_some {n : Nat} {x : Profile} : profileOf n = some x ↔ n = x.code := by
  unfold profileOf Profile.code
  cases x <;> split <;> simp_all

theorem profileOf_eq_none {n : Nat} : profileOf n = none ↔ 2 ≤ n := by
  unfold profileOf
  split
  · simp; omega
  · split <;> simp <;> omega

theorem polarityOf_eq_some {n : Nat} {x : Polarity} : polarityOf n = some x ↔ n = x.code := by
  unfold polarityOf Polarity.code
  cases x <;> split <;> simp_all

theorem polarityOf_eq_none {n : Nat} : polarityOf n = none ↔ 2 ≤ n := by
  unfold polarityOf
  split
  · simp; omega
  · split <;> simp <;> omega

theorem lengthOf_eq_some {n : Nat} {x : IntervalLength} : lengthOf n = some x ↔ n = x.minutes := by
  unfold lengthOf IntervalLength.minutes
  cases x <;> repeat' split
  all_goals simp_all

theorem lengthOf_eq_none {n : Nat} : lengthOf n = none ↔ n ∉ [5, 10, 15, 30, 60] := by
  unfold lengthOf
  repeat' split
  all_goals simp_all

theorem sourceOf_code (k : Source) : sourceOf k.code = some k := by
  cases k with
  | warn c =>
    have := c.isLt
    simp [sourceOf, Source.code, show ¬2 + c.val = 1 by omega, show 2 + c.val < 10 by omega]
  | exhaust c =>
    have := c.isLt
    simp [sourceOf, Source.code, show ¬10 + c.val = 1 by omega,
      show ¬10 + c.val < 10 by omega, show 10 + c.val < 18 by omega]
  | _ => rfl

theorem sourceOf_eq_none {n : Nat} : sourceOf n = none ↔ 25 ≤ n := by
  unfold sourceOf
  repeat' split
  all_goals simp only [Option.map_eq_none_iff, finOf_eq_none, reduceCtorEq, false_iff, true_iff]
  all_goals omega

theorem classCode_eq_some {b : Byte} {k : ClassNo} : classCode b = some k ↔ b.toNat % 16 = k.val := finOf_eq_some

theorem classCode_eq_none {b : Byte} : classCode b = none ↔ 12 ≤ b.toNat % 16 := finOf_eq_none

/-- Clamping into a range is the two bounds taken in turn. -/
theorem clamp_eq {lo hi v : Nat} (h : lo ≤ hi) : clamp lo hi v = max lo (min hi v) := by
  unfold clamp
  split
  · omega
  · split <;> omega

theorem clamp_bounds {lo hi : Nat} (h : lo ≤ hi) (v : Nat) : lo ≤ clamp lo hi v ∧ clamp lo hi v ≤ hi := by
  rw [clamp_eq h]
  omega

end Sys2Proof.Machine
end

