-- ==== Sys2Proof/Laws/Levels.lean ====
section
/-! SUPPORT. Laws of the level arithmetic that hold of every level: energies are positive, those of the scale lie within
it, and every finding lies within the scale. -/

namespace Sys2Proof.Machine

theorem length_mantissaTable : mantissaTable.length = 100 := rfl

/-- The entries of the mantissa table lie between 10000 and 97724. -/
theorem mantissa_bounds {f : Nat} (h : f < 100) : 10000 ≤ mantissa f ∧ mantissa f ≤ 97724 := by
  have key : ∀ f < 100, 10000 ≤ mantissa f ∧ mantissa f ≤ 97724 := by decide
  exact key f h

theorem energy_pos (l : Nat) : 0 < energy l := by
  have := (mantissa_bounds (Nat.mod_lt l (by decide : 0 < 100))).1
  exact Nat.mul_pos (by omega) (Nat.pow_pos (by decide))

/-- The energy of every level of the scale lies between 10000 and 10^16 (R45). -/
theorem energy_bounds {l : Nat} (hi : l ≤ 1400) : 10000 ≤ energy l ∧ energy l ≤ 10 ^ 16 := by
  have hm := mantissa_bounds (Nat.mod_lt l (by decide : 0 < 100))
  have hp : 1 ≤ 10 ^ (l / 100 - 2) := Nat.one_le_pow _ _ (by decide)
  refine ⟨by unfold energy; nlinarith [hm.1], ?_⟩
  by_cases h : l = 1400
  · subst h
    decide
  · have hk : l / 100 - 2 ≤ 11 := by omega
    calc energy l ≤ 97724 * 10 ^ 11 := Nat.mul_le_mul hm.2 (Nat.pow_le_pow_right (by decide) hk)
      _ ≤ 10 ^ 16 := by decide

/-- A finding of LEVEL lies within the scale (R32). -/
theorem interpret_level {held : Option Report} {l p : Nat} {overload : Bool}
    (h : interpret held = .level l p overload) : 200 ≤ l ∧ l ≤ 1400 ∧ 400 ≤ p ∧ p ≤ 1500 := by
  cases held with
  | none => simp [interpret] at h
  | some r =>
    have hp := clamp_bounds (show 400 ≤ 1500 by decide) r.peak.toNat
    simp only [interpret] at h
    repeat' split at h
    all_goals simp only [SliceResult.level.injEq, reduceCtorEq] at h
    all_goals omega

/-- A slice result of LEVEL is the finding (R37). -/
theorem linkDeadline_level {lossCount : Nat} {k : Link} {finding : SliceResult} {l p : Nat} {overload : Bool}
    (h : (linkDeadline lossCount k finding).2 = some (.level l p overload)) : finding = .level l p overload := by
  unfold linkDeadline searchDeadline liveDeadline lostDeadline at h
  repeat' split at h
  all_goals simp_all

end Sys2Proof.Machine
end

