-- ==== Sys2Proof/Laws/Word.lean ====
section
/-! SUPPORT. Laws of the group of eight. -/

namespace Sys2Proof

theorem Oct.get_eta {α : Type} (o : Oct α) :
    o = ⟨o.get 0, o.get 1, o.get 2, o.get 3, o.get 4, o.get 5, o.get 6, o.get 7⟩ := rfl

/-- Two groups with equal members are equal. -/
theorem Oct.ext_get {α : Type} {a b : Oct α} (h : ∀ i, a.get i = b.get i) : a = b := by
  rw [a.get_eta, b.get_eta]
  simp only [h]

@[simp] theorem Oct.get_ofFn {α : Type} (f : Fin 8 → α) (i : Fin 8) : (Oct.ofFn f).get i = f i := by
  match i with
  | 0 => rfl
  | 1 => rfl
  | 2 => rfl
  | 3 => rfl
  | 4 => rfl
  | 5 => rfl
  | 6 => rfl
  | 7 => rfl

@[simp] theorem Oct.get_set {α : Type} (o : Oct α) (i j : Fin 8) (a : α) :
    (o.set i a).get j = if j = i then a else o.get j := by
  simp [Oct.set]

@[simp] theorem Oct.get_fill {α : Type} (a : α) (i : Fin 8) : (Oct.fill a).get i = a := Oct.get_ofFn (fun _ => a) i

theorem Oct.map_eq_ofFn {α β : Type} (f : α → β) (o : Oct α) : o.map f = Oct.ofFn fun i => f (o.get i) := rfl

@[simp] theorem Oct.get_map {α β : Type} (f : α → β) (o : Oct α) (i : Fin 8) : (o.map f).get i = f (o.get i) := by
  rw [Oct.map_eq_ofFn, Oct.get_ofFn]

@[simp] theorem Oct.ofFn_get {α : Type} (o : Oct α) : Oct.ofFn o.get = o := rfl

@[simp] theorem Oct.set_get {α : Type} (o : Oct α) (i : Fin 8) : o.set i (o.get i) = o := by
  apply Oct.ext_get
  intro j
  simp only [Oct.get_set]
  split <;> simp_all

theorem Oct.toList_eq_map {α : Type} (o : Oct α) : o.toList = (List.finRange 8).map o.get := rfl

theorem Oct.mem_toList {α : Type} {o : Oct α} {a : α} : a ∈ o.toList ↔ ∃ i, o.get i = a := by
  simp [Oct.toList_eq_map]

theorem Oct.any_eq_true {α : Type} {o : Oct α} {p : α → Bool} : o.any p = true ↔ ∃ i, p (o.get i) = true := by
  simp [Oct.any, Oct.toList_eq_map]

end Sys2Proof
end

