-- ==== Sys2Proof/Laws/Ops.lean ====
section
/-! SUPPORT. Laws of the shared operations: sets, saturating counts, and the log. -/

namespace Sys2Proof.Machine

/-! ### Sets and counters -/

@[simp] theorem member_setOf (f : Fin 8 → Bool) (i : Fin 8) : member (setOf f) i = f i := by
  have key : ∀ b0 b1 b2 b3 b4 b5 b6 b7 : Bool, ∀ i : Fin 8,
      member (BitVec.ofNat 8 (boolCode b0 + 2 * boolCode b1 + 4 * boolCode b2 + 8 * boolCode b3 + 16 * boolCode b4 +
        32 * boolCode b5 + 64 * boolCode b6 + 128 * boolCode b7)) i =
      (Oct.mk b0 b1 b2 b3 b4 b5 b6 b7).get i := by decide
  exact (key (f 0) (f 1) (f 2) (f 3) (f 4) (f 5) (f 6) (f 7) i).trans (Oct.get_ofFn f i)

@[simp] theorem member_withMember (set : BitVec 8) (i j : Fin 8) (b : Bool) :
    member (withMember set i b) j = if j = i then b else member set j := by
  simp [withMember]

/-- Two sets with the same members are equal. -/
theorem member_ext {a b : BitVec 8} (h : ∀ i, member a i = member b i) : a = b := by
  apply BitVec.eq_of_getLsbD_eq
  intro i hi
  exact h ⟨i, hi⟩

@[simp] theorem member_zero (i : Fin 8) : member 0#8 i = false := by simp [member]

@[simp] theorem member_and (a b : BitVec 8) (i : Fin 8) : member (a &&& b) i = (member a i && member b i) := by
  simp [member]

@[simp] theorem member_not (a : BitVec 8) (i : Fin 8) : member (~~~a) i = !member a i := by
  simp [member]

/-- A set is empty exactly when it has no member. -/
theorem eq_zero_iff_no_member {a : BitVec 8} : a = 0 ↔ ∀ i, member a i = false := by
  constructor
  · rintro rfl i
    exact member_zero i
  · intro h
    exact member_ext fun i => (h i).trans (member_zero i).symm

theorem satInc16_eq (n : Nat) : satInc16 n = min 65535 (n + 1) := by
  unfold satInc16
  split <;> simp only [Config.sat16] at * <;> omega

theorem satAdd32_eq (n k : Nat) : satAdd32 n k = min 4294967295 (n + k) := by
  unfold satAdd32
  split <;> simp only [Config.sat32] at * <;> omega

@[simp] theorem isTimeStep_eq_true {timed : Option Timed} :
    isTimeStep timed = true ↔ ∃ time weekday, timed = some (.setTime time weekday) := by
  cases timed with
  | none => simp [isTimeStep]
  | some t => cases t <;> simp [isTimeStep]

@[simp] theorem ChannelState.enabled_eq_true {ch : ChannelState} : ch.enabled = true ↔ ch.link ≠ .off := by
  simp [ChannelState.enabled]

@[simp] theorem ChannelState.enabled_eq_false {ch : ChannelState} : ch.enabled = false ↔ ch.link = .off := by
  simp [ChannelState.enabled]

theorem State.pendingTimed_eq_some {s : State} {t : Timed} :
    s.pendingTimed = some t ↔ s.authority.command = .busy t := by
  unfold State.pendingTimed
  split <;> simp_all

theorem State.pendingTimed_eq_none {s : State} :
    s.pendingTimed = none ↔ ∀ t, s.authority.command ≠ .busy t := by
  unfold State.pendingTimed
  split <;> simp_all

/-! ### The log -/

@[simp] theorem Log.length_all (log : Log) : log.all.length = log.held := by
  unfold Log.all Log.held
  cases log.openLoss <;> simp

theorem LossBody.count_eq_raised (b : LossBody) (time : Time) (body : RecordBody) :
    b.count time body = b.raised time body.kind := by
  cases body <;> simp [LossBody.count, LossBody.raised, RecordBody.kind, satInc16_eq]

/-- All that the log can do with an offered record. -/
theorem Log.take_cases (log : Log) (time : Time) (o : Offer) :
    (log.held < 255 ∧ log.take time o = log.append o) ∨
      (∃ l, 255 ≤ log.held ∧ log.openLoss = some l ∧
        log.take time o = { log with openLoss := some { l with body := l.body.count time o.body } }) ∨
      (255 ≤ log.held ∧ log.openLoss = none ∧ log.take time o = log.openNewLoss time o) := by
  unfold Log.take
  split
  · exact .inl ⟨‹_›, rfl⟩
  · rename_i h
    have h : 255 ≤ log.held := Nat.le_of_not_lt h
    split
    · exact .inr (.inl ⟨_, h, ‹_›, rfl⟩)
    · exact .inr (.inr ⟨h, ‹_›, rfl⟩)

@[simp] theorem Log.takeAll_nil (log : Log) (time : Time) : log.takeAll time [] = log := rfl

@[simp] theorem Log.takeAll_cons (log : Log) (time : Time) (o : Offer) (os : List Offer) :
    log.takeAll time (o :: os) = (log.take time o).takeAll time os := rfl

/-- What every taken record keeps, a whole batch keeps. -/
theorem Log.takeAll_induct {P : Log → Prop} (h : ∀ (l : Log) (time : Time) (o : Offer), P l → P (l.take time o))
    (log : Log) (time : Time) (os : List Offer) (hl : P log) : P (log.takeAll time os) := by
  induction os generalizing log with
  | nil => exact hl
  | cons o os ih => exact ih _ (h _ _ _ hl)

/-- The oldest record, read from the list of all that is held. -/
theorem Log.oldest_eq (log : Log) :
    log.oldest = log.all.head?.map fun r => (r, decide (log.records ≠ [])) := by
  unfold Log.oldest Log.all
  cases h : log.records with
  | cons r rs => simp
  | nil => cases log.openLoss <;> simp

/-- All that the reading at the cursor can answer: a record held whose number is C, final exactly where it is no open
LOSS record; or none, where no record held has that number (R163). -/
theorem Log.atCursor_cases (log : Log) :
    (log.atCursor = none ∧ ∀ r ∈ log.all, r.seq ≠ log.cursor) ∨
      (∃ r ∈ log.records, r.seq = log.cursor ∧ log.atCursor = some (r, true)) ∨
      ∃ l, log.openLoss = some l ∧ l.seq = log.cursor ∧ (∀ r ∈ log.records, r.seq ≠ log.cursor) ∧
        log.atCursor = some (l.record, false) := by
  unfold Log.atCursor Log.all
  cases hr : log.records.find? fun r => r.seq == log.cursor with
  | some r => exact .inr (.inl ⟨r, List.mem_of_find?_eq_some hr, by simpa using List.find?_some hr, rfl⟩)
  | none =>
    have hno : ∀ r ∈ log.records, r.seq ≠ log.cursor := by simpa using hr
    cases hl : log.openLoss with
    | none => exact .inl ⟨rfl, by simpa using hno⟩
    | some l =>
      by_cases h : l.seq = log.cursor
      · exact .inr (.inr ⟨l, rfl, h, hno, by simp [h]⟩)
      · refine .inl ⟨by simp [h], fun r hmem => ?_⟩
        simp only [Option.toList_some, List.map_cons, List.map_nil, List.mem_append, List.mem_singleton] at hmem
        rcases hmem with hmem | rfl
        · exact hno r hmem
        · exact h

/-- What bringing the cursor up leaves: the lag at most the number held, and C the oldest record's number, or N, where
the lag was above it (R163). -/
theorem Log.catchUp_eq (log : Log) :
    log.catchUp =
      { log with
        lag := min log.lag log.held
        cursor := if log.held < log.lag then (log.all.head?.map Record.seq).getD log.next else log.cursor } := by
  unfold Log.catchUp
  by_cases h : log.held < log.lag
  · rw [if_pos h, if_pos h, Nat.min_eq_right h.le, Log.oldest_eq]
    cases log.all.head? <;> rfl
  · rw [if_neg h, if_neg h, Nat.min_eq_left (by omega)]

theorem Log.dropOldest_all (log : Log) : log.dropOldest.all = log.all.tail := by
  unfold Log.dropOldest Log.all
  cases h : log.records with
  | cons r rs => simp
  | nil => cases log.openLoss <;> simp

end Sys2Proof.Machine
end

