-- ==== Sys2Proof/Laws/State.lean ====
section
/-! SUPPORT. Laws of the updates of the state: for each update, the fields that it leaves and the one it changes. -/

namespace Sys2Proof.Machine

/-! ### One port changed -/

@[simp] theorem State.mapPort_site (s : State) (f : PortState → PortState) :
    s.mapPort .site f = { s with site := f s.site } := rfl

@[simp] theorem State.mapPort_authority (s : State) (f : PortState → PortState) :
    s.mapPort .authority f = { s with authority := f s.authority } := rfl

@[simp] theorem State.port_site (s : State) : s.port .site = s.site := rfl

@[simp] theorem State.port_authority (s : State) : s.port .authority = s.authority := rfl

@[simp] theorem State.mapPort_port (s : State) (p : Port) (f : PortState → PortState) :
    (s.mapPort p f).port p = f (s.port p) := by
  cases p <;> rfl

theorem State.mapPort_port_other (s : State) (p : Port) (f : PortState → PortState) :
    (s.mapPort p f).port (otherPort p) = s.port (otherPort p) := by
  cases p <;> rfl

@[simp] theorem State.mapPort_mapPort (s : State) (p : Port) (f g : PortState → PortState) :
    (s.mapPort p f).mapPort p g = s.mapPort p fun q => g (f q) := by
  cases p <;> rfl

@[simp] theorem State.mapPort_id (s : State) (p : Port) : (s.mapPort p fun q => q) = s := by
  cases p <;> rfl

@[simp] theorem State.mapPort_channel (s : State) (p : Port) (f : PortState → PortState) (c : Channel) :
    (s.mapPort p f).channel c = s.channel c := by
  cases p <;> rfl

@[simp] theorem State.mapPort_capture (s : State) (p : Port) (f : PortState → PortState) (c : Channel) :
    (s.mapPort p f).capture c = s.capture c := by
  cases p <;> rfl

@[simp] theorem State.mapPort_source (s : State) (p : Port) (f : PortState → PortState) (k : Source) :
    (s.mapPort p f).source k = s.source k := by
  cases p <;> cases k <;> rfl

@[simp] theorem State.mapPort_offerConfig (s : State) (p : Port) (f : PortState → PortState) (q : Port)
    (change : ConfigChange) : (s.mapPort p f).offerConfig q change = (s.offerConfig q change).mapPort p f := by
  cases p <;> rfl

@[simp] theorem State.mapPort_nrstLow (s : State) (p : Port) (f : PortState → PortState) :
    (s.mapPort p f).nrstLow = s.nrstLow := by
  cases p <;> rfl

@[simp] theorem State.mapPort_crystalRunning (s : State) (p : Port) (f : PortState → PortState) :
    (s.mapPort p f).crystalRunning = s.crystalRunning := by
  cases p <;> rfl

@[simp] theorem State.mapPort_timebase (s : State) (p : Port) (f : PortState → PortState) :
    (s.mapPort p f).timebase = s.timebase := by
  cases p <;> rfl

@[simp] theorem State.mapPort_headLink (s : State) (p : Port) (f : PortState → PortState) :
    (s.mapPort p f).headLink = s.headLink := by
  cases p <;> rfl

@[simp] theorem State.mapPort_channels (s : State) (p : Port) (f : PortState → PortState) :
    (s.mapPort p f).channels = s.channels := by
  cases p <;> rfl

@[simp] theorem State.mapPort_activity (s : State) (p : Port) (f : PortState → PortState) :
    (s.mapPort p f).activity = s.activity := by
  cases p <;> rfl

@[simp] theorem State.mapPort_settings (s : State) (p : Port) (f : PortState → PortState) :
    (s.mapPort p f).settings = s.settings := by
  cases p <;> rfl

@[simp] theorem State.mapPort_log (s : State) (p : Port) (f : PortState → PortState) :
    (s.mapPort p f).log = s.log := by
  cases p <;> rfl

@[simp] theorem State.mapPort_matrix (s : State) (p : Port) (f : PortState → PortState) :
    (s.mapPort p f).matrix = s.matrix := by
  cases p <;> rfl

@[simp] theorem State.mapPort_shortHighs (s : State) (p : Port) (f : PortState → PortState) :
    (s.mapPort p f).shortHighs = s.shortHighs := by
  cases p <;> rfl

@[simp] theorem State.mapPort_pending (s : State) (p : Port) (f : PortState → PortState) :
    (s.mapPort p f).pending = s.pending := by
  cases p <;> rfl

/-! ### One channel changed -/

@[simp] theorem State.mapChannel_channel (s : State) (c d : Channel) (f : ChannelState → ChannelState) :
    (s.mapChannel c f).channel d = if d = c then f (s.channel c) else s.channel d := by
  simp [State.mapChannel, State.channel]

@[simp] theorem State.mapChannel_nrstLow (s : State) (c : Channel) (f : ChannelState → ChannelState) :
    (s.mapChannel c f).nrstLow = s.nrstLow := rfl

@[simp] theorem State.mapChannel_crystalRunning (s : State) (c : Channel) (f : ChannelState → ChannelState) :
    (s.mapChannel c f).crystalRunning = s.crystalRunning := rfl

@[simp] theorem State.mapChannel_timebase (s : State) (c : Channel) (f : ChannelState → ChannelState) :
    (s.mapChannel c f).timebase = s.timebase := rfl

@[simp] theorem State.mapChannel_headLink (s : State) (c : Channel) (f : ChannelState → ChannelState) :
    (s.mapChannel c f).headLink = s.headLink := rfl

@[simp] theorem State.mapChannel_activity (s : State) (c : Channel) (f : ChannelState → ChannelState) :
    (s.mapChannel c f).activity = s.activity := rfl

@[simp] theorem State.mapChannel_settings (s : State) (c : Channel) (f : ChannelState → ChannelState) :
    (s.mapChannel c f).settings = s.settings := rfl

@[simp] theorem State.mapChannel_log (s : State) (c : Channel) (f : ChannelState → ChannelState) :
    (s.mapChannel c f).log = s.log := rfl

@[simp] theorem State.mapChannel_matrix (s : State) (c : Channel) (f : ChannelState → ChannelState) :
    (s.mapChannel c f).matrix = s.matrix := rfl

@[simp] theorem State.mapChannel_site (s : State) (c : Channel) (f : ChannelState → ChannelState) :
    (s.mapChannel c f).site = s.site := rfl

@[simp] theorem State.mapChannel_authority (s : State) (c : Channel) (f : ChannelState → ChannelState) :
    (s.mapChannel c f).authority = s.authority := rfl

@[simp] theorem State.mapChannel_shortHighs (s : State) (c : Channel) (f : ChannelState → ChannelState) :
    (s.mapChannel c f).shortHighs = s.shortHighs := rfl

@[simp] theorem State.mapChannel_pending (s : State) (c : Channel) (f : ChannelState → ChannelState) :
    (s.mapChannel c f).pending = s.pending := rfl

/-! ### A CONFIG record offered -/

@[simp] theorem State.offerConfig_nrstLow (s : State) (p : Port) (change : ConfigChange) :
    (s.offerConfig p change).nrstLow = s.nrstLow := rfl

@[simp] theorem State.offerConfig_crystalRunning (s : State) (p : Port) (change : ConfigChange) :
    (s.offerConfig p change).crystalRunning = s.crystalRunning := rfl

@[simp] theorem State.offerConfig_timebase (s : State) (p : Port) (change : ConfigChange) :
    (s.offerConfig p change).timebase = s.timebase := rfl

@[simp] theorem State.offerConfig_headLink (s : State) (p : Port) (change : ConfigChange) :
    (s.offerConfig p change).headLink = s.headLink := rfl

@[simp] theorem State.offerConfig_channels (s : State) (p : Port) (change : ConfigChange) :
    (s.offerConfig p change).channels = s.channels := rfl

@[simp] theorem State.offerConfig_activity (s : State) (p : Port) (change : ConfigChange) :
    (s.offerConfig p change).activity = s.activity := rfl

@[simp] theorem State.offerConfig_settings (s : State) (p : Port) (change : ConfigChange) :
    (s.offerConfig p change).settings = s.settings := rfl

@[simp] theorem State.offerConfig_matrix (s : State) (p : Port) (change : ConfigChange) :
    (s.offerConfig p change).matrix = s.matrix := rfl

@[simp] theorem State.offerConfig_site (s : State) (p : Port) (change : ConfigChange) :
    (s.offerConfig p change).site = s.site := rfl

@[simp] theorem State.offerConfig_authority (s : State) (p : Port) (change : ConfigChange) :
    (s.offerConfig p change).authority = s.authority := rfl

@[simp] theorem State.offerConfig_shortHighs (s : State) (p : Port) (change : ConfigChange) :
    (s.offerConfig p change).shortHighs = s.shortHighs := rfl

@[simp] theorem State.offerConfig_pending (s : State) (p : Port) (change : ConfigChange) :
    (s.offerConfig p change).pending = s.pending := rfl

@[simp] theorem State.offerConfig_log (s : State) (p : Port) (change : ConfigChange) :
    (s.offerConfig p change).log = s.log.take s.timebase.time ⟨none, s.timebase.time, .config p change⟩ := rfl

@[simp] theorem State.offerConfig_channel (s : State) (p : Port) (change : ConfigChange) (c : Channel) :
    (s.offerConfig p change).channel c = s.channel c := rfl

@[simp] theorem State.offerConfig_port (s : State) (p q : Port) (change : ConfigChange) :
    (s.offerConfig p change).port q = s.port q := by
  cases q <;> rfl

end Sys2Proof.Machine
end

