-- ==== Sys2Proof/Laws/Boundary.lean ====
section
/-! SUPPORT. Laws of a boundary: what an ended frame, the completion of a timed command, and all the work of the boundary
leave of each field, and what a deadline hands on. -/

namespace Sys2Proof.Machine

/-! ### A frame that ends -/

@[simp] theorem acceptFrame_nrstLow (frame : List Byte) (s : State) : (acceptFrame frame s).nrstLow = s.nrstLow := by
  unfold acceptFrame
  repeat' split
  all_goals rfl

@[simp] theorem endFrame_nrstLow (heard : List Byte) (s : State) : (endFrame heard s).nrstLow = s.nrstLow := by
  simp [endFrame]

@[simp] theorem frameAtBoundary_nrstLow (heard : List Byte) (s : State) :
    (frameAtBoundary heard s).nrstLow = s.nrstLow := by
  unfold frameAtBoundary
  repeat' split
  all_goals first | rfl | simp

@[simp] theorem acceptFrame_crystalRunning (frame : List Byte) (s : State) : (acceptFrame frame s).crystalRunning = s.crystalRunning := by
  unfold acceptFrame
  repeat' split
  all_goals rfl

@[simp] theorem endFrame_crystalRunning (heard : List Byte) (s : State) : (endFrame heard s).crystalRunning = s.crystalRunning := by
  simp [endFrame]

@[simp] theorem frameAtBoundary_crystalRunning (heard : List Byte) (s : State) :
    (frameAtBoundary heard s).crystalRunning = s.crystalRunning := by
  unfold frameAtBoundary
  repeat' split
  all_goals first | rfl | simp

@[simp] theorem acceptFrame_timebase (frame : List Byte) (s : State) : (acceptFrame frame s).timebase = s.timebase := by
  unfold acceptFrame
  repeat' split
  all_goals rfl

@[simp] theorem endFrame_timebase (heard : List Byte) (s : State) : (endFrame heard s).timebase = s.timebase := by
  simp [endFrame]

@[simp] theorem frameAtBoundary_timebase (heard : List Byte) (s : State) :
    (frameAtBoundary heard s).timebase = s.timebase := by
  unfold frameAtBoundary
  repeat' split
  all_goals first | rfl | simp

@[simp] theorem acceptFrame_activity (frame : List Byte) (s : State) : (acceptFrame frame s).activity = s.activity := by
  unfold acceptFrame
  repeat' split
  all_goals rfl

@[simp] theorem endFrame_activity (heard : List Byte) (s : State) : (endFrame heard s).activity = s.activity := by
  simp [endFrame]

@[simp] theorem frameAtBoundary_activity (heard : List Byte) (s : State) :
    (frameAtBoundary heard s).activity = s.activity := by
  unfold frameAtBoundary
  repeat' split
  all_goals first | rfl | simp

@[simp] theorem acceptFrame_settings (frame : List Byte) (s : State) : (acceptFrame frame s).settings = s.settings := by
  unfold acceptFrame
  repeat' split
  all_goals rfl

@[simp] theorem endFrame_settings (heard : List Byte) (s : State) : (endFrame heard s).settings = s.settings := by
  simp [endFrame]

@[simp] theorem frameAtBoundary_settings (heard : List Byte) (s : State) :
    (frameAtBoundary heard s).settings = s.settings := by
  unfold frameAtBoundary
  repeat' split
  all_goals first | rfl | simp

@[simp] theorem acceptFrame_log (frame : List Byte) (s : State) : (acceptFrame frame s).log = s.log := by
  unfold acceptFrame
  repeat' split
  all_goals rfl

@[simp] theorem endFrame_log (heard : List Byte) (s : State) : (endFrame heard s).log = s.log := by
  simp [endFrame]

@[simp] theorem frameAtBoundary_log (heard : List Byte) (s : State) :
    (frameAtBoundary heard s).log = s.log := by
  unfold frameAtBoundary
  repeat' split
  all_goals first | rfl | simp

@[simp] theorem acceptFrame_matrix (frame : List Byte) (s : State) : (acceptFrame frame s).matrix = s.matrix := by
  unfold acceptFrame
  repeat' split
  all_goals rfl

@[simp] theorem endFrame_matrix (heard : List Byte) (s : State) : (endFrame heard s).matrix = s.matrix := by
  simp [endFrame]

@[simp] theorem frameAtBoundary_matrix (heard : List Byte) (s : State) :
    (frameAtBoundary heard s).matrix = s.matrix := by
  unfold frameAtBoundary
  repeat' split
  all_goals first | rfl | simp

@[simp] theorem acceptFrame_site (frame : List Byte) (s : State) : (acceptFrame frame s).site = s.site := by
  unfold acceptFrame
  repeat' split
  all_goals rfl

@[simp] theorem endFrame_site (heard : List Byte) (s : State) : (endFrame heard s).site = s.site := by
  simp [endFrame]

@[simp] theorem frameAtBoundary_site (heard : List Byte) (s : State) :
    (frameAtBoundary heard s).site = s.site := by
  unfold frameAtBoundary
  repeat' split
  all_goals first | rfl | simp

@[simp] theorem acceptFrame_authority (frame : List Byte) (s : State) : (acceptFrame frame s).authority = s.authority := by
  unfold acceptFrame
  repeat' split
  all_goals rfl

@[simp] theorem endFrame_authority (heard : List Byte) (s : State) : (endFrame heard s).authority = s.authority := by
  simp [endFrame]

@[simp] theorem frameAtBoundary_authority (heard : List Byte) (s : State) :
    (frameAtBoundary heard s).authority = s.authority := by
  unfold frameAtBoundary
  repeat' split
  all_goals first | rfl | simp

@[simp] theorem acceptFrame_shortHighs (frame : List Byte) (s : State) : (acceptFrame frame s).shortHighs = s.shortHighs := by
  unfold acceptFrame
  repeat' split
  all_goals rfl

@[simp] theorem endFrame_shortHighs (heard : List Byte) (s : State) : (endFrame heard s).shortHighs = s.shortHighs := by
  simp [endFrame]

@[simp] theorem frameAtBoundary_shortHighs (heard : List Byte) (s : State) :
    (frameAtBoundary heard s).shortHighs = s.shortHighs := by
  unfold frameAtBoundary
  repeat' split
  all_goals first | rfl | simp

@[simp] theorem acceptFrame_pending (frame : List Byte) (s : State) : (acceptFrame frame s).pending = s.pending := by
  unfold acceptFrame
  repeat' split
  all_goals rfl

@[simp] theorem endFrame_pending (heard : List Byte) (s : State) : (endFrame heard s).pending = s.pending := by
  simp [endFrame]

@[simp] theorem frameAtBoundary_pending (heard : List Byte) (s : State) :
    (frameAtBoundary heard s).pending = s.pending := by
  unfold frameAtBoundary
  repeat' split
  all_goals first | rfl | simp

@[simp] theorem frameAtBoundary_clockRuns (heard : List Byte) (s : State) :
    (frameAtBoundary heard s).clockRuns = s.clockRuns := by
  simp [State.clockRuns]

@[simp] theorem frameAtBoundary_pendingTimed (heard : List Byte) (s : State) :
    (frameAtBoundary heard s).pendingTimed = s.pendingTimed := by
  simp [State.pendingTimed]

/-- A frame changes of a channel at most the held report and the counts LATE and DUP, and nothing of one that is
OFF. -/
theorem acceptReport_cases (syncTag : Option Byte) (tag : Byte) (report : Report) (ch : ChannelState) :
    acceptReport syncTag tag report ch = ch ∨
      (ch.link ≠ .off ∧
        (acceptReport syncTag tag report ch = { ch with late := satInc16 ch.late } ∨
          acceptReport syncTag tag report ch = { ch with dup := satInc16 ch.dup } ∨
          acceptReport syncTag tag report ch = { ch with held := some report })) := by
  unfold acceptReport
  repeat' split
  all_goals simp_all

/-- What a frame can do to a channel, of whichever channel it is. -/
theorem acceptFrame_channel (frame : List Byte) (s : State) (c : Channel) :
    (acceptFrame frame s).channel c = s.channel c ∨
      ∃ syncTag tag report, (acceptFrame frame s).channel c = acceptReport syncTag tag report (s.channel c) := by
  unfold acceptFrame
  repeat' split
  · exact .inl rfl
  · exact .inl rfl
  · exact .inl rfl
  · rename_i d _
    rw [State.mapChannel_channel]
    split
    · rename_i h
      subst h
      exact .inr ⟨_, _, _, rfl⟩
    · exact .inl rfl

theorem endFrame_channel (heard : List Byte) (s : State) (c : Channel) :
    (endFrame heard s).channel c = s.channel c ∨
      ∃ syncTag tag report, (endFrame heard s).channel c = acceptReport syncTag tag report (s.channel c) :=
  acceptFrame_channel _ { s with headLink := { s.headLink with inFrame := [] } } c

theorem frameAtBoundary_channel (heard : List Byte) (s : State) (c : Channel) :
    (frameAtBoundary heard s).channel c = s.channel c ∨
      ∃ syncTag tag report, (frameAtBoundary heard s).channel c = acceptReport syncTag tag report (s.channel c) := by
  unfold frameAtBoundary
  repeat' split
  · exact .inl rfl
  · exact endFrame_channel heard s c
  · exact .inl rfl

@[simp] theorem acceptReport_link (syncTag : Option Byte) (tag : Byte) (report : Report) (ch : ChannelState) :
    (acceptReport syncTag tag report ch).link = ch.link := by
  unfold acceptReport
  repeat' split
  all_goals rfl

@[simp] theorem frameAtBoundary_channel_link (heard : List Byte) (s : State) (c : Channel) :
    ((frameAtBoundary heard s).channel c).link = (s.channel c).link := by
  rcases frameAtBoundary_channel heard s c with h | ⟨_, _, _, h⟩ <;> rw [h]
  exact acceptReport_link _ _ _ _

@[simp] theorem acceptReport_acquire (syncTag : Option Byte) (tag : Byte) (report : Report) (ch : ChannelState) :
    (acceptReport syncTag tag report ch).acquire = ch.acquire := by
  unfold acceptReport
  repeat' split
  all_goals rfl

@[simp] theorem frameAtBoundary_channel_acquire (heard : List Byte) (s : State) (c : Channel) :
    ((frameAtBoundary heard s).channel c).acquire = (s.channel c).acquire := by
  rcases frameAtBoundary_channel heard s c with h | ⟨_, _, _, h⟩ <;> rw [h]
  exact acceptReport_acquire _ _ _ _

@[simp] theorem acceptReport_miss (syncTag : Option Byte) (tag : Byte) (report : Report) (ch : ChannelState) :
    (acceptReport syncTag tag report ch).miss = ch.miss := by
  unfold acceptReport
  repeat' split
  all_goals rfl

@[simp] theorem frameAtBoundary_channel_miss (heard : List Byte) (s : State) (c : Channel) :
    ((frameAtBoundary heard s).channel c).miss = (s.channel c).miss := by
  rcases frameAtBoundary_channel heard s c with h | ⟨_, _, _, h⟩ <;> rw [h]
  exact acceptReport_miss _ _ _ _

@[simp] theorem acceptReport_lastResult (syncTag : Option Byte) (tag : Byte) (report : Report) (ch : ChannelState) :
    (acceptReport syncTag tag report ch).lastResult = ch.lastResult := by
  unfold acceptReport
  repeat' split
  all_goals rfl

@[simp] theorem frameAtBoundary_channel_lastResult (heard : List Byte) (s : State) (c : Channel) :
    ((frameAtBoundary heard s).channel c).lastResult = (s.channel c).lastResult := by
  rcases frameAtBoundary_channel heard s c with h | ⟨_, _, _, h⟩ <;> rw [h]
  exact acceptReport_lastResult _ _ _ _

@[simp] theorem acceptReport_interval (syncTag : Option Byte) (tag : Byte) (report : Report) (ch : ChannelState) :
    (acceptReport syncTag tag report ch).interval = ch.interval := by
  unfold acceptReport
  repeat' split
  all_goals rfl

@[simp] theorem frameAtBoundary_channel_interval (heard : List Byte) (s : State) (c : Channel) :
    ((frameAtBoundary heard s).channel c).interval = (s.channel c).interval := by
  rcases frameAtBoundary_channel heard s c with h | ⟨_, _, _, h⟩ <;> rw [h]
  exact acceptReport_interval _ _ _ _

@[simp] theorem acceptReport_gap (syncTag : Option Byte) (tag : Byte) (report : Report) (ch : ChannelState) :
    (acceptReport syncTag tag report ch).gap = ch.gap := by
  unfold acceptReport
  repeat' split
  all_goals rfl

@[simp] theorem frameAtBoundary_channel_gap (heard : List Byte) (s : State) (c : Channel) :
    ((frameAtBoundary heard s).channel c).gap = (s.channel c).gap := by
  rcases frameAtBoundary_channel heard s c with h | ⟨_, _, _, h⟩ <;> rw [h]
  exact acceptReport_gap _ _ _ _

@[simp] theorem acceptReport_prev (syncTag : Option Byte) (tag : Byte) (report : Report) (ch : ChannelState) :
    (acceptReport syncTag tag report ch).prev = ch.prev := by
  unfold acceptReport
  repeat' split
  all_goals rfl

@[simp] theorem frameAtBoundary_channel_prev (heard : List Byte) (s : State) (c : Channel) :
    ((frameAtBoundary heard s).channel c).prev = (s.channel c).prev := by
  rcases frameAtBoundary_channel heard s c with h | ⟨_, _, _, h⟩ <;> rw [h]
  exact acceptReport_prev _ _ _ _

@[simp] theorem acceptReport_background (syncTag : Option Byte) (tag : Byte) (report : Report) (ch : ChannelState) :
    (acceptReport syncTag tag report ch).background = ch.background := by
  unfold acceptReport
  repeat' split
  all_goals rfl

@[simp] theorem frameAtBoundary_channel_background (heard : List Byte) (s : State) (c : Channel) :
    ((frameAtBoundary heard s).channel c).background = (s.channel c).background := by
  rcases frameAtBoundary_channel heard s c with h | ⟨_, _, _, h⟩ <;> rw [h]
  exact acceptReport_background _ _ _ _

@[simp] theorem acceptReport_event (syncTag : Option Byte) (tag : Byte) (report : Report) (ch : ChannelState) :
    (acceptReport syncTag tag report ch).event = ch.event := by
  unfold acceptReport
  repeat' split
  all_goals rfl

@[simp] theorem frameAtBoundary_channel_event (heard : List Byte) (s : State) (c : Channel) :
    ((frameAtBoundary heard s).channel c).event = (s.channel c).event := by
  rcases frameAtBoundary_channel heard s c with h | ⟨_, _, _, h⟩ <;> rw [h]
  exact acceptReport_event _ _ _ _

@[simp] theorem frameAtBoundary_headLink_driverOn (heard : List Byte) (s : State) :
    (frameAtBoundary heard s).headLink.driverOn = s.headLink.driverOn := by
  unfold frameAtBoundary endFrame acceptFrame
  repeat' split
  all_goals rfl

@[simp] theorem frameAtBoundary_headLink_syncTag (heard : List Byte) (s : State) :
    (frameAtBoundary heard s).headLink.syncTag = s.headLink.syncTag := by
  unfold frameAtBoundary endFrame acceptFrame
  repeat' split
  all_goals rfl

/-! ### A timed command completes -/

@[simp] theorem completeTimed_nrstLow (before : State) (timed : Option Timed) (s : State) :
    (completeTimed before timed s).nrstLow = s.nrstLow := by
  unfold completeTimed
  split <;> rfl

@[simp] theorem completeTimed_crystalRunning (before : State) (timed : Option Timed) (s : State) :
    (completeTimed before timed s).crystalRunning = s.crystalRunning := by
  unfold completeTimed
  split <;> rfl

@[simp] theorem completeTimed_timebase (before : State) (timed : Option Timed) (s : State) :
    (completeTimed before timed s).timebase = s.timebase := by
  unfold completeTimed
  split <;> rfl

@[simp] theorem completeTimed_headLink (before : State) (timed : Option Timed) (s : State) :
    (completeTimed before timed s).headLink = s.headLink := by
  unfold completeTimed
  split <;> rfl

@[simp] theorem completeTimed_channels (before : State) (timed : Option Timed) (s : State) :
    (completeTimed before timed s).channels = s.channels := by
  unfold completeTimed
  split <;> rfl

@[simp] theorem completeTimed_activity (before : State) (timed : Option Timed) (s : State) :
    (completeTimed before timed s).activity = s.activity := by
  unfold completeTimed
  split <;> rfl

@[simp] theorem completeTimed_settings (before : State) (timed : Option Timed) (s : State) :
    (completeTimed before timed s).settings = s.settings := by
  unfold completeTimed
  split <;> rfl

@[simp] theorem completeTimed_log (before : State) (timed : Option Timed) (s : State) :
    (completeTimed before timed s).log = s.log := by
  unfold completeTimed
  split <;> rfl

@[simp] theorem completeTimed_matrix (before : State) (timed : Option Timed) (s : State) :
    (completeTimed before timed s).matrix = s.matrix := by
  unfold completeTimed
  split <;> rfl

@[simp] theorem completeTimed_shortHighs (before : State) (timed : Option Timed) (s : State) :
    (completeTimed before timed s).shortHighs = s.shortHighs := by
  unfold completeTimed
  split <;> rfl

@[simp] theorem completeTimed_pending (before : State) (timed : Option Timed) (s : State) :
    (completeTimed before timed s).pending = s.pending := by
  unfold completeTimed
  split <;> rfl

/-- The site port at a boundary: RESTART empties its slots. -/
theorem completeTimed_site (before : State) (timed : Option Timed) (s : State) :
    (completeTimed before timed s).site = if timed = some .restart then s.site.emptySlots else s.site := by
  unfold completeTimed
  split <;> simp_all

/-- The authority port at a boundary: a timed command completes, and RESTART empties the slots. -/
theorem completeTimed_authority (before : State) (timed : Option Timed) (s : State) :
    (completeTimed before timed s).authority =
      match timed with
      | none => s.authority
      | some .restart => s.authority.emptySlots.complete (timedData before .restart)
      | some t => s.authority.complete (timedData before t) := by
  unfold completeTimed
  split <;> simp_all

/-! ### The work of a boundary -/

@[simp] theorem boundaryWork_nrstLow (s : State) :
    (boundaryWork s).nrstLow = s.nrstLow := by
  simp [boundaryWork]

@[simp] theorem boundaryWork_crystalRunning (s : State) :
    (boundaryWork s).crystalRunning = s.crystalRunning := by
  simp [boundaryWork]

@[simp] theorem boundaryWork_timebase (s : State) :
    (boundaryWork s).timebase = s.timebase.atBoundary s.pendingTimed := by
  simp [boundaryWork]

@[simp] theorem boundaryWork_headLink (s : State) :
    (boundaryWork s).headLink = s.headLink.atBoundary s.timebase.slice s.pendingTimed := by
  simp [boundaryWork]

@[simp] theorem boundaryWork_channels (s : State) :
    (boundaryWork s).channels = Oct.ofFn fun c => (channelWork s s.pendingTimed c).ch := by
  simp [boundaryWork]

@[simp] theorem boundaryWork_activity (s : State) :
    (boundaryWork s).activity =
      (s.activity.atBoundary s.timebase.slice s.pendingTimed s.settings.quietHold).1 := by
  simp [boundaryWork]

@[simp] theorem boundaryWork_settings (s : State) :
    (boundaryWork s).settings = s.settings := by
  simp [boundaryWork]

@[simp] theorem boundaryWork_log (s : State) :
    (boundaryWork s).log =
      s.log.takeAll (s.timebase.atBoundary s.pendingTimed).time
      (batch s s.pendingTimed (s.timebase.atBoundary s.pendingTimed).time) := by
  simp [boundaryWork]

@[simp] theorem boundaryWork_matrix (s : State) :
    (boundaryWork s).matrix = s.matrix := by
  simp [boundaryWork]

@[simp] theorem boundaryWork_shortHighs (s : State) :
    (boundaryWork s).shortHighs = s.shortHighs := by
  simp [boundaryWork]

@[simp] theorem boundaryWork_pending (s : State) :
    (boundaryWork s).pending = s.pending := by
  simp [boundaryWork]

@[simp] theorem boundaryWork_channel (s : State) (c : Channel) :
    (boundaryWork s).channel c = (channelWork s s.pendingTimed c).ch := by
  simp [State.channel]

theorem boundaryWork_site (s : State) :
    (boundaryWork s).site = if s.pendingTimed = some .restart then s.site.emptySlots else s.site := by
  simp [boundaryWork, completeTimed_site]

theorem boundaryWork_authority (s : State) :
    (boundaryWork s).authority =
      match s.pendingTimed with
      | none => s.authority
      | some .restart => s.authority.emptySlots.complete (timedData s .restart)
      | some t => s.authority.complete (timedData s t) := by
  simp [boundaryWork, completeTimed_authority]

/-- A running clock reaches the boundary. -/
theorem exec_boundary {s : State} (heard : List Byte) (h : s.clockRuns = true) :
    exec (.boundary heard) s = .next (boundaryWork (frameAtBoundary heard s)) := by
  simp [exec, execBoundary, reachBoundary, h]

/-! ### The deadline -/

/-- The part of an account that is handed a result: the channel after the deadline's link work. -/
theorem deadlineLink_cases (lossCount : Nat) (ch : ChannelState) :
    (ch.link = .off ∧ deadlineLink lossCount ch = (ch, none)) ∨
      ∃ r, ch.link ≠ .off ∧ (linkDeadline lossCount ch.linkOf (interpret ch.held)).2 = some r ∧
        deadlineLink lossCount ch =
          ({ ch.withLink (linkDeadline lossCount ch.linkOf (interpret ch.held)).1 with held := none }, some r) := by
  unfold deadlineLink
  dsimp only
  cases h : (linkDeadline lossCount ch.linkOf (interpret ch.held)).2 with
  | none =>
    refine .inl ⟨?_, rfl⟩
    cases hl : ch.link <;> simp [linkDeadline, ChannelState.linkOf, hl] at h ⊢
  | some r =>
    refine .inr ⟨r, ?_, rfl, rfl⟩
    intro hl
    simp [linkDeadline, ChannelState.linkOf, hl] at h

/-- A deadline leaves an enabled channel enabled and an OFF channel OFF. -/
theorem linkDeadline_off (lossCount : Nat) (l : Link) (finding : SliceResult) :
    (linkDeadline lossCount l finding).1.state = .off ↔ l.state = .off := by
  unfold linkDeadline searchDeadline liveDeadline lostDeadline
  cases h : l.state <;> simp <;> repeat' split
  all_goals simp_all

/-- No result is handed on without a deadline, for a voided slice, or for a channel that is OFF. -/
theorem deadline_start {s : State} {c : Channel}
    (h : ∀ ended, s.timebase.lastSlice = some ended → ended.voided = false →
      (deadlineLink s.settings.lossCount (s.channel c)).2 = none) :
    ∃ ch, deadline s c = ChannelWork.start ch ∧
      (ch = s.channel c ∨ ch = (deadlineLink s.settings.lossCount (s.channel c)).1) := by
  unfold deadline
  dsimp only
  split
  · exact ⟨_, rfl, .inl rfl⟩
  · rename_i ended he
    split
    · rename_i hd
      exact ⟨_, rfl, .inr (by rw [hd])⟩
    · rename_i hd
      cases hv : ended.voided with
      | true => exact ⟨_, rfl, .inr (by rw [hd])⟩
      | false =>
        have := h _ he hv
        rw [hd] at this
        simp at this

/-- A result that is handed on is accounted. -/
theorem deadline_account {s : State} {c : Channel} {ended : EndedSlice} {r : SliceResult}
    (he : s.timebase.lastSlice = some ended) (hv : ended.voided = false)
    (hr : (deadlineLink s.settings.lossCount (s.channel c)).2 = some r) :
    deadline s c =
      account (s.sliceContext ended.tag) c
        { (deadlineLink s.settings.lossCount (s.channel c)).1 with lastResult := some r.kept } r := by
  unfold deadline
  dsimp only
  rw [he]
  dsimp only
  split
  · rename_i hd
    rw [hd] at hr
    simp at hr
  · rename_i ch r' hd
    rw [hd] at hr ⊢
    simp only [Option.some.injEq] at hr
    subst hr
    simp [hv]

/-- A result is handed on exactly by a deadline of a slice that is not voided on a channel that is not OFF (R37). -/
theorem handedOn_eq_some {s : State} {heard : List Byte} {c : Channel} {r : SliceResult} :
    s.handedOn heard c = some r ↔
      ∃ ended, s.timebase.lastSlice = some ended ∧ ended.voided = false ∧
        (deadlineLink s.settings.lossCount ((frameAtBoundary heard s).channel c)).2 = some r := by
  unfold State.handedOn
  split
  · simp_all
  · rename_i ended he
    cases hv : ended.voided <;> simp_all

end Sys2Proof.Machine
end

