-- ==== Sys2Proof/Laws/Work.lean ====
section
/-! SUPPORT. Laws of one channel's work at a boundary: what an account and each forced end leave, and the records they
offer. -/

namespace Sys2Proof.Machine

/-! ### Deadlines -/

@[simp] theorem frameAtBoundary_sliceContext (heard : List Byte) (s : State) (tag : Tag) :
    (frameAtBoundary heard s).sliceContext tag = s.sliceContext tag := by
  simp [State.sliceContext]

/-- The link work of a deadline leaves the counts, the open work and the last result. -/
theorem deadlineLink_frame (lossCount : Nat) (ch : ChannelState) :
    (deadlineLink lossCount ch).1 =
      { ch with
        link := (deadlineLink lossCount ch).1.link
        acquire := (deadlineLink lossCount ch).1.acquire
        miss := (deadlineLink lossCount ch).1.miss
        held := (deadlineLink lossCount ch).1.held } := by
  rcases deadlineLink_cases lossCount ch with ⟨-, h⟩ | ⟨r, -, -, h⟩ <;> rw [h]
  rfl

theorem deadlineLink_off (lossCount : Nat) (ch : ChannelState) :
    (deadlineLink lossCount ch).1.link = .off ↔ ch.link = .off := by
  rcases deadlineLink_cases lossCount ch with ⟨-, h⟩ | ⟨r, -, -, h⟩ <;> rw [h]
  exact linkDeadline_off _ _ _

/-- All that a boundary's deadline can do to a channel: nothing is handed on, and at most the link moves; or a result is
handed on and accounted. -/
theorem deadline_cases (heard : List Byte) (s : State) (c : Channel) :
    (s.handedOn heard c = none ∧
      ∃ ch, deadline (frameAtBoundary heard s) c = ChannelWork.start ch ∧
        (ch = (frameAtBoundary heard s).channel c ∨
          ch = (deadlineLink s.settings.lossCount ((frameAtBoundary heard s).channel c)).1)) ∨
      ∃ ended r, s.timebase.lastSlice = some ended ∧ ended.voided = false ∧ s.handedOn heard c = some r ∧
        (deadlineLink s.settings.lossCount ((frameAtBoundary heard s).channel c)).2 = some r ∧
        deadline (frameAtBoundary heard s) c =
          account (s.sliceContext ended.tag) c
            { (deadlineLink s.settings.lossCount ((frameAtBoundary heard s).channel c)).1 with
              lastResult := some r.kept } r := by
  cases h : s.handedOn heard c with
  | some r =>
    obtain ⟨ended, h1, h2, h3⟩ := handedOn_eq_some.1 h
    refine .inr ⟨ended, r, h1, h2, rfl, h3, ?_⟩
    have h4 := deadline_account (s := frameAtBoundary heard s) (c := c) (by simpa using h1) h2 (by simpa using h3)
    simpa using h4
  | none =>
    refine .inl ⟨rfl, ?_⟩
    have h4 := deadline_start (s := frameAtBoundary heard s) (c := c) ?_
    · simpa using h4
    intro ended h1 h2
    rw [Option.eq_none_iff_forall_ne_some]
    intro r hr
    have h5 := handedOn_eq_some.2 ⟨ended, by simpa using h1, h2, by simpa using hr⟩
    rw [h] at h5
    simp at h5

/-- The log takes the boundary's one batch at the new slice's time (R152, R153). -/
theorem boundaryWork_batch (heard : List Byte) (s : State) :
    (boundaryWork (frameAtBoundary heard s)).log =
      s.log.takeAll (boundaryWork (frameAtBoundary heard s)).timebase.time
        (batch (frameAtBoundary heard s) s.pendingTimed (boundaryWork (frameAtBoundary heard s)).timebase.time) := by
  simp

/-! ### Accounts -/

/-- An account leaves the link side of its channel as the deadline left it. -/
theorem account_frame (x : SliceContext) (c : Channel) (ch : ChannelState) (r : SliceResult) :
    (account x c ch r).ch =
      { ch with
        interval := (account x c ch r).ch.interval
        gap := (account x c ch r).ch.gap
        prev := some r.prev
        background := ch.background.step x.quiet r x.settings.bgShift
        event := (account x c ch r).ch.event } := by
  unfold account closeStep
  dsimp only
  repeat' split
  all_goals rfl

/-- After an account the channel has an open interval. -/
theorem account_interval_isSome (x : SliceContext) (c : Channel) (ch : ChannelState) (r : SliceResult) :
    (account x c ch r).ch.interval.isSome = true := rfl

/-- The interval that takes a slice in: the channel's own unless the close check closes it or there is none (R56,
R59). -/
theorem closeStep_interval (x : SliceContext) (c : Channel) (ch : ChannelState) :
    (closeStep x c ch).1.interval.getD (openInterval x) = intervalFor x ch.interval := by
  unfold closeStep intervalFor Interval.closeCheck
  cases h : ch.interval with
  | none => simp [h]
  | some iv =>
    dsimp only
    by_cases h1 : iv.elapsed = iv.planned
    · simp [h1, ChannelState.closed]
    · by_cases h2 : x.tag.cls = iv.cls
      · simp [h1, h2, h]
      · simp [h1, h2, ChannelState.closed]

/-- All that the close check can do (R59). -/
theorem closeStep_cases (x : SliceContext) (c : Channel) (ch : ChannelState) :
    (ch.interval = none ∧ closeStep x c ch = (ch, none)) ∨
      (∃ iv, ch.interval = some iv ∧ iv.elapsed = iv.planned ∧
        closeStep x c ch = (ch.closed, some (intervalOffer c iv .length))) ∨
      (∃ iv, ch.interval = some iv ∧ iv.elapsed ≠ iv.planned ∧ x.tag.cls ≠ iv.cls ∧
        closeStep x c ch = (ch.closed, some (intervalOffer c iv .classChange))) ∨
      (∃ iv, ch.interval = some iv ∧ iv.elapsed ≠ iv.planned ∧ x.tag.cls = iv.cls ∧
        closeStep x c ch = (ch, none)) := by
  unfold closeStep Interval.closeCheck
  cases h : ch.interval with
  | none => exact .inl ⟨rfl, rfl⟩
  | some iv =>
    dsimp only
    by_cases h1 : iv.elapsed = iv.planned
    · exact .inr (.inl ⟨iv, rfl, h1, by simp [h1]⟩)
    · by_cases h2 : x.tag.cls = iv.cls
      · exact .inr (.inr (.inr ⟨iv, rfl, h1, h2, by simp [h1, h2]⟩))
      · exact .inr (.inr (.inl ⟨iv, rfl, h1, h2, by simp [h1, h2]⟩))

/-- A deadline never takes a channel to OFF or out of it. -/
theorem deadline_off (heard : List Byte) (s : State) (c : Channel) :
    (deadline (frameAtBoundary heard s) c).ch.link = .off ↔ (s.channel c).link = .off := by
  rcases deadline_cases heard s c with ⟨-, ch, h, rfl | rfl⟩ | ⟨_, _, -, -, -, -, h⟩ <;> rw [h]
  · simp [ChannelWork.start]
  · simp [ChannelWork.start, deadlineLink_off]
  · rw [account_frame]
    simp [deadlineLink_off]

/-- A deadline leaves LATE and DUP as they stand once the frame has been ended. -/
theorem deadline_counts (heard : List Byte) (s : State) (c : Channel) :
    (deadline (frameAtBoundary heard s) c).ch.late = ((frameAtBoundary heard s).channel c).late ∧
      (deadline (frameAtBoundary heard s) c).ch.dup = ((frameAtBoundary heard s).channel c).dup := by
  rcases deadline_cases heard s c with ⟨-, ch, h, rfl | rfl⟩ | ⟨_, _, -, -, -, -, h⟩ <;> rw [h]
  · exact ⟨rfl, rfl⟩
  · simp only [ChannelWork.start]
    rw [deadlineLink_frame]
    exact ⟨rfl, rfl⟩
  · rw [account_frame]
    simp only
    rw [deadlineLink_frame]
    exact ⟨rfl, rfl⟩

/-! ### Forced ends -/

/-- All that the forced end of a gap run can do (R90). -/
theorem ChannelWork.endGap_cases (w : ChannelWork) (c : Channel) (cause : Cause) :
    (w.ch.gap = none ∧ w.endGap c cause = w) ∨
      ∃ g, w.ch.gap = some g ∧ w.endGap c cause =
        { w with ch := { w.ch with gap := none }, gapRecord := (gapOffer c g cause none).or w.gapRecord } := by
  unfold ChannelWork.endGap
  cases h : w.ch.gap with
  | none => exact .inl ⟨rfl, rfl⟩
  | some g => exact .inr ⟨g, rfl, rfl⟩

/-- All that the forced close of an event can do (R125, R126). -/
theorem ChannelWork.endEvent_cases (w : ChannelWork) (c : Channel) (cause : Cause) :
    (w.ch.event = none ∧ w.endEvent c cause = w) ∨
      ∃ e, w.ch.event = some e ∧ w.endEvent c cause =
        { w with ch := { w.ch with event := none }, eventRecord := (eventOffer c e cause).or w.eventRecord } := by
  unfold ChannelWork.endEvent
  cases h : w.ch.event with
  | none => exact .inl ⟨rfl, rfl⟩
  | some e => exact .inr ⟨e, rfl, rfl⟩

/-- All that the forced close of an interval can do (R65). -/
theorem ChannelWork.endInterval_cases (w : ChannelWork) (c : Channel) (cause : Cause) :
    (w.ch.interval = none ∧ w.endInterval c cause = w) ∨
      ∃ iv, w.ch.interval = some iv ∧ w.endInterval c cause =
        { w with ch := w.ch.closed, forcedRecord := some (intervalOffer c iv cause) } := by
  unfold ChannelWork.endInterval
  cases h : w.ch.interval with
  | none => exact .inl ⟨rfl, rfl⟩
  | some iv => exact .inr ⟨iv, rfl, rfl⟩

/-- The forced ends of a time step, CHANNEL_OFF or RESTART leave no open work on the channel, and its link as it
stands. -/
theorem ChannelWork.closeAll_ch (w : ChannelWork) (c : Channel) (cause : Cause) :
    (w.closeAll c cause).ch = { w.ch with interval := none, gap := none, event := none, prev := none } := by
  unfold ChannelWork.closeAll
  dsimp only
  rcases w.endGap_cases c cause with ⟨h1, h2⟩ | ⟨g, h1, h2⟩ <;> rw [h2]
  · rcases w.endEvent_cases c cause with ⟨h3, h4⟩ | ⟨e, h3, h4⟩ <;> rw [h4]
    · rcases w.endInterval_cases c cause with ⟨h5, h6⟩ | ⟨iv, h5, h6⟩ <;> rw [h6]
      · rw [← h1, ← h3, ← h5]
      · simp [ChannelState.closed, h1, h3]
    · rcases ChannelWork.endInterval_cases _ c cause with ⟨h5, h6⟩ | ⟨iv, h5, h6⟩ <;> rw [h6]
      · simp only at h5
        simp [h1, h5]
      · simp [ChannelState.closed, h1]
  · rcases ChannelWork.endEvent_cases _ c cause with ⟨h3, h4⟩ | ⟨e, h3, h4⟩ <;> rw [h4]
    · simp only at h3
      rcases ChannelWork.endInterval_cases _ c cause with ⟨h5, h6⟩ | ⟨iv, h5, h6⟩ <;> rw [h6]
      · simp only at h5
        simp [h3, h5]
      · simp [ChannelState.closed, h3]
    · rcases ChannelWork.endInterval_cases _ c cause with ⟨h5, h6⟩ | ⟨iv, h5, h6⟩ <;> rw [h6]
      · simp only at h5
        simp [h5]
      · simp [ChannelState.closed]

/-- All that CUT can do to a channel of its mask (R66, R67). -/
theorem ChannelWork.cut_cases (w : ChannelWork) (c : Channel) :
    ((w.ch.link = .off ∨ w.ch.interval = none) ∧ w.cut c = w) ∨
      ∃ iv, w.ch.link ≠ .off ∧ w.ch.interval = some iv ∧
        (w.cut c).ch =
          { w.ch with interval := none, event := none, gap := w.ch.gap.map GapRun.homeClosed } ∧
        (w.cut c).gapRecord = w.gapRecord ∧ (w.cut c).naturalRecord = w.naturalRecord ∧
        (w.cut c).eventRecord = ((w.ch.event.bind fun e => eventOffer c e .cut).or w.eventRecord) ∧
        (w.cut c).forcedRecord = some (intervalOffer c iv .cut) := by
  unfold ChannelWork.cut
  by_cases hl : w.ch.link = .off
  · exact .inl ⟨.inl hl, by simp [ChannelState.enabled, hl]⟩
  · cases hi : w.ch.interval with
    | none => exact .inl ⟨.inr rfl, by simp⟩
    | some iv =>
      refine .inr ⟨iv, hl, rfl, ?_⟩
      simp only [ChannelState.enabled, hl, ne_eq, not_false_eq_true, decide_true, Option.isSome_some, Bool.and_self,
        ↓reduceIte]
      rcases w.endEvent_cases c .cut with ⟨h3, h4⟩ | ⟨e, h3, h4⟩ <;> rw [h4]
      · rcases w.endInterval_cases c .cut with ⟨h5, h6⟩ | ⟨iv', h5, h6⟩
        · simp [hi] at h5
        · rw [hi, Option.some.injEq] at h5
          subst h5
          rw [h6]
          simp [ChannelState.closed, h3]
      · rcases ChannelWork.endInterval_cases
            { w with ch := { w.ch with event := none }, eventRecord := (eventOffer c e .cut).or w.eventRecord } c .cut
          with ⟨h5, h6⟩ | ⟨iv', h5, h6⟩
        · simp [hi] at h5
        · simp only [hi, Option.some.injEq] at h5
          subst h5
          rw [h6]
          simp [ChannelState.closed, h3]

/-! ### Records -/

theorem ChannelWork.mem_records {w : ChannelWork} {o : Offer} :
    o ∈ w.records ↔
      w.gapRecord = some o ∨ w.eventRecord = some o ∨ w.naturalRecord = some o ∨ w.forcedRecord = some o := by
  simp only [ChannelWork.records, List.mem_append, Option.mem_toList]
  tauto

/-- The offers of a boundary: a channel's, the episode's, or the timed command's CONFIG record (R153). -/
theorem mem_batch {s : State} {timed : Option Timed} {now : Time} {o : Offer} :
    o ∈ batch s timed now ↔
      (∃ c, o ∈ (channelWork s timed c).records) ∨
        (s.activity.atBoundary s.timebase.slice timed s.settings.quietHold).2 = some o ∨
        ∃ t, timed = some t ∧ o = timedOffer s now t := by
  simp only [batch, List.mem_append, List.mem_flatMap, Oct.mem_toList, Option.mem_toList, Option.map_eq_some_iff,
    Oct.get_ofFn]
  constructor
  · rintro ((⟨_, ⟨c, rfl⟩, h⟩ | h) | ⟨t, rfl, rfl⟩)
    · exact .inl ⟨c, h⟩
    · exact .inr (.inl h)
    · exact .inr (.inr ⟨t, rfl, rfl⟩)
  · rintro (⟨c, h⟩ | h | ⟨t, rfl, rfl⟩)
    · exact .inl (.inl ⟨_, ⟨c, rfl⟩, h⟩)
    · exact .inl (.inr h)
    · exact .inr ⟨t, rfl, rfl⟩

/-- The CONFIG record of a timed command stands last in its batch. -/
theorem batch_getLast? (s : State) (t : Timed) (now : Time) :
    (batch s (some t) now).getLast? = some (timedOffer s now t) := by
  simp [batch]

end Sys2Proof.Machine
end

