-- ==== Sys2Proof/Laws/Account.lean ====
section
/-! SUPPORT. What the parts of an account can do: the gap-run step, the event step, and the records of an account. -/

namespace Sys2Proof.Machine

/-! ### Gap runs -/

/-- The gap-run step leaves the interval, unless a LEVEL result fills a run that meets all four conditions (R85,
R86). -/
theorem gapStep_interval (x : SliceContext) (c : Channel) (gap : Option GapRun) (prev : Option PrevResult)
    (iv : Interval) (r : SliceResult) (bg : Option Nat) :
    (gapStep x c gap prev iv r bg).interval = iv ∨
      ∃ g l p overload, gap = some g ∧ r = .level l p overload ∧ g.refusal x.settings.concealMax = none ∧
        (gapStep x c gap prev iv r bg).interval =
          (iv.conceal g.length (concealEnergy (g.before.getD 0) (energy l)) bg).recompute x.settings.warnFraction := by
  unfold gapStep endRunByLevel
  repeat' split
  all_goals first
    | exact .inl rfl
    | exact .inr ⟨_, _, _, _, rfl, rfl, by assumption, rfl⟩

/-- After the gap-run step a run is open exactly after MISSING (R82 to R89). -/
theorem gapStep_gap (x : SliceContext) (c : Channel) (gap : Option GapRun) (prev : Option PrevResult) (iv : Interval)
    (r : SliceResult) (bg : Option Nat) :
    (gapStep x c gap prev iv r bg).gap =
      if r = .missing then
        some (match gap with
          | none => startRun x.tag.time prev iv
          | some g => g.extend x.tag.time)
      else none := by
  unfold gapStep endRunByLevel
  repeat' split
  all_goals simp_all

/-! ### Events -/

@[simp] theorem settleEvent_interval (c : Channel) (iv : Interval) (e : Event) (cause : Option Cause) :
    (settleEvent c iv e cause).interval = iv := by
  cases cause <;> rfl

/-- All that an account can do to an open event (R121 to R123): a trigger folds the slice in, any other slice counts the
hold down, and the event is then settled. -/
theorem openContextStep_cases (x : SliceContext) (c : Channel) (iv : Interval) (e : Event) (r : SliceResult) :
    (∃ l p overload, r = .level l p overload ∧ triggers e.lmaxThreshold e.peakThreshold r = true ∧
        openContextStep x c iv e r =
          settleEvent c iv (e.retrigger x.tag.time x.settings.eventHold l p)
            (if 65535 ≤ e.age + 1 then some .long else none)) ∨
      (triggers e.lmaxThreshold e.peakThreshold r = false ∧
        openContextStep x c iv e r =
          settleEvent c iv (e.countDown r)
            (if e.hold - 1 = 0 then some .hold else if 65535 ≤ e.age + 1 then some .long else none)) := by
  unfold openContextStep
  cases r with
  | level l p overload =>
    dsimp only
    split
    · rename_i h
      exact .inl ⟨l, p, overload, rfl, h, rfl⟩
    · rename_i h
      exact .inr ⟨by simpa using h, rfl⟩
  | missing => exact .inr ⟨rfl, rfl⟩
  | cal => exact .inr ⟨rfl, rfl⟩

/-- All that the event step can do where no event is open (R119). -/
theorem eventStep_idle_cases (x : SliceContext) (c : Channel) (iv : Interval) (r : SliceResult) :
    (triggers iv.lmax iv.peak r = false ∧ eventStep x c iv none r = ⟨iv, none, none, none⟩) ∨
      ∃ l p overload, r = .level l p overload ∧ triggers iv.lmax iv.peak r = true ∧
        eventStep x c iv none r =
          ⟨{ iv with eventCount := satInc16 iv.eventCount },
            some (openEvent x.tag.time x.settings.eventHold { iv with eventCount := satInc16 iv.eventCount } l p),
            none, none⟩ := by
  unfold eventStep
  cases r with
  | level l p overload =>
    dsimp only
    split
    · rename_i h
      exact .inr ⟨l, p, overload, rfl, h, rfl⟩
    · rename_i h
      exact .inl ⟨by simpa using h, rfl⟩
  | missing => exact .inl ⟨rfl, rfl⟩
  | cal => exact .inl ⟨rfl, rfl⟩

/-- The event step changes at most the interval's event count (R64). -/
theorem eventStep_interval (x : SliceContext) (c : Channel) (iv : Interval) (event : Option Event) (r : SliceResult) :
    ∃ n, (eventStep x c iv event r).interval = { iv with eventCount := n } := by
  cases event with
  | none =>
    rcases eventStep_idle_cases x c iv r with ⟨-, h⟩ | ⟨_, _, _, -, -, h⟩ <;> rw [h]
    · exact ⟨iv.eventCount, rfl⟩
    · exact ⟨_, rfl⟩
  | some e =>
    refine ⟨iv.eventCount, ?_⟩
    rcases openContextStep_cases x c iv e r with ⟨_, _, _, -, -, h⟩ | ⟨-, h⟩
    · exact (congrArg EventStep.interval h).trans (settleEvent_interval _ _ _ _)
    · exact (congrArg EventStep.interval h).trans (settleEvent_interval _ _ _ _)

/-! ### The account as a whole -/

/-- The interval as it stands after the add and the recompute of an account (R60, R132). -/
def addedInterval (x : SliceContext) (ch : ChannelState) (r : SliceResult) : Interval :=
  ((intervalFor x ch.interval).add x r (ch.background.valid x.settings.bgMin)).recompute x.settings.warnFraction

/-- The gap-run step of an account. -/
def accountGap (x : SliceContext) (c : Channel) (ch : ChannelState) (r : SliceResult) : GapStep :=
  gapStep x c (closeStep x c ch).1.gap ch.prev (addedInterval x ch r) r (ch.background.valid x.settings.bgMin)

/-- The event step of an account. -/
def accountEvent (x : SliceContext) (c : Channel) (ch : ChannelState) (r : SliceResult) : EventStep :=
  eventStep x c (accountGap x c ch r).interval ch.event r

/-- An account in its parts: what each leaves and offers (R58). -/
theorem account_eq (x : SliceContext) (c : Channel) (ch : ChannelState) (r : SliceResult) :
    account x c ch r =
      { ch :=
          { ch with
            interval := some (accountEvent x c ch r).interval
            gap := (accountGap x c ch r).gap
            event := (accountEvent x c ch r).event
            prev := some r.prev
            background := ch.background.step x.quiet r x.settings.bgShift }
        eventClosed := (accountEvent x c ch r).closed
        gapRecord := (accountGap x c ch r).offer
        eventRecord := (accountEvent x c ch r).offer
        naturalRecord := (closeStep x c ch).2
        forcedRecord := none } := by
  unfold accountEvent accountGap addedInterval
  rw [← closeStep_interval x c ch]
  rcases closeStep_cases x c ch with ⟨-, h⟩ | ⟨_, -, -, h⟩ | ⟨_, -, -, -, h⟩ | ⟨_, -, -, -, h⟩ <;>
    simp only [account, h] <;> rfl

/-- The gap run that reaches the gap-run step: its home is closed where the close check closed the interval (R84). -/
theorem closeStep_gap (x : SliceContext) (c : Channel) (ch : ChannelState) :
    ((closeStep x c ch).2 = none ∧ (closeStep x c ch).1 = ch) ∨
      ((closeStep x c ch).2 ≠ none ∧ (closeStep x c ch).1.gap = ch.gap.map GapRun.homeClosed) := by
  rcases closeStep_cases x c ch with ⟨-, h⟩ | ⟨_, -, -, h⟩ | ⟨_, -, -, -, h⟩ | ⟨_, -, -, -, h⟩ <;> rw [h]
  · exact .inl ⟨rfl, rfl⟩
  · exact .inr ⟨by simp, rfl⟩
  · exact .inr ⟨by simp, rfl⟩
  · exact .inl ⟨rfl, rfl⟩

/-! ### Its records -/

theorem gapOffer_eq_some {c : Channel} {g : GapRun} {cause : Cause} {refusal : Option ConcealRefusal} {o : Offer}
    (h : gapOffer c g cause refusal = some o) : o.channel = some c ∧ o.body.kind = 3 := by
  unfold gapOffer at h
  split at h
  · simp only [Option.some.injEq] at h
    subst h
    exact ⟨rfl, rfl⟩
  · simp at h

theorem eventOffer_eq_some {c : Channel} {e : Event} {cause : Cause} {o : Offer} (h : eventOffer c e cause = some o) :
    o.channel = some c ∧ o.body.kind = 2 := by
  unfold eventOffer at h
  split at h
  · simp at h
  · simp only [Option.some.injEq] at h
    subst h
    exact ⟨rfl, rfl⟩

theorem gapStep_offer {x : SliceContext} {c : Channel} {gap : Option GapRun} {prev : Option PrevResult} {iv : Interval}
    {r : SliceResult} {bg : Option Nat} {o : Offer} (h : (gapStep x c gap prev iv r bg).offer = some o) :
    o.channel = some c ∧ o.body.kind = 3 := by
  unfold gapStep endRunByLevel at h
  repeat' split at h
  all_goals first
    | exact gapOffer_eq_some h
    | simp at h

theorem settleEvent_offer {c : Channel} {iv : Interval} {e : Event} {cause : Option Cause} {o : Offer}
    (h : (settleEvent c iv e cause).offer = some o) : o.channel = some c ∧ o.body.kind = 2 := by
  cases cause with
  | none => simp [settleEvent] at h
  | some k => exact eventOffer_eq_some h

theorem eventStep_offer {x : SliceContext} {c : Channel} {iv : Interval} {event : Option Event} {r : SliceResult}
    {o : Offer} (h : (eventStep x c iv event r).offer = some o) : o.channel = some c ∧ o.body.kind = 2 := by
  cases event with
  | none => rcases eventStep_idle_cases x c iv r with ⟨-, h1⟩ | ⟨_, _, _, -, -, h1⟩ <;> simp [h1] at h
  | some e =>
    change (openContextStep x c iv e r).offer = some o at h
    rcases openContextStep_cases x c iv e r with ⟨_, _, _, -, -, h1⟩ | ⟨-, h1⟩ <;> rw [h1] at h <;>
      exact settleEvent_offer h

theorem closeStep_offer {x : SliceContext} {c : Channel} {ch : ChannelState} {o : Offer}
    (h : (closeStep x c ch).2 = some o) : o.channel = some c ∧ o.body.kind = 1 := by
  rcases closeStep_cases x c ch with ⟨-, h1⟩ | ⟨_, -, -, h1⟩ | ⟨_, -, -, -, h1⟩ | ⟨_, -, -, -, h1⟩ <;> rw [h1] at h
  · simp at h
  · simp only [Option.some.injEq] at h
    subst h
    exact ⟨rfl, rfl⟩
  · simp only [Option.some.injEq] at h
    subst h
    exact ⟨rfl, rfl⟩
  · simp at h

/-- Each record of an account names its channel and is of the kind of its place (R153). -/
theorem account_records (x : SliceContext) (c : Channel) (ch : ChannelState) (r : SliceResult) :
    (∀ o, (account x c ch r).gapRecord = some o → o.channel = some c ∧ o.body.kind = 3) ∧
      (∀ o, (account x c ch r).eventRecord = some o → o.channel = some c ∧ o.body.kind = 2) ∧
      (∀ o, (account x c ch r).naturalRecord = some o → o.channel = some c ∧ o.body.kind = 1) ∧
      (account x c ch r).forcedRecord = none := by
  rw [account_eq]
  exact ⟨fun _ h => gapStep_offer h, fun _ h => eventStep_offer h, fun _ h => closeStep_offer h, rfl⟩

/-- Every record of a channel's work at a boundary names that channel and is of the kind of its place (R153). -/
theorem channelWork_records (heard : List Byte) (s : State) (timed : Option Timed) (c : Channel) :
    (∀ o, (channelWork (frameAtBoundary heard s) timed c).gapRecord = some o → o.channel = some c ∧ o.body.kind = 3) ∧
      (∀ o, (channelWork (frameAtBoundary heard s) timed c).eventRecord = some o →
        o.channel = some c ∧ o.body.kind = 2) ∧
      (∀ o, (channelWork (frameAtBoundary heard s) timed c).naturalRecord = some o →
        o.channel = some c ∧ o.body.kind = 1) ∧
      (∀ o, (channelWork (frameAtBoundary heard s) timed c).forcedRecord = some o →
        o.channel = some c ∧ o.body.kind = 1) := by
  let Good (w : ChannelWork) : Prop :=
    (∀ o, w.gapRecord = some o → o.channel = some c ∧ o.body.kind = 3) ∧
      (∀ o, w.eventRecord = some o → o.channel = some c ∧ o.body.kind = 2) ∧
      (∀ o, w.naturalRecord = some o → o.channel = some c ∧ o.body.kind = 1) ∧
      (∀ o, w.forcedRecord = some o → o.channel = some c ∧ o.body.kind = 1)
  have hd : Good (deadline (frameAtBoundary heard s) c) := by
    rcases deadline_cases heard s c with ⟨-, _, h, -⟩ | ⟨_, _, -, -, -, -, h⟩ <;> rw [h]
    · simp [Good, ChannelWork.start]
    · obtain ⟨h1, h2, h3, h4⟩ := account_records (s.sliceContext _) c _ _
      exact ⟨h1, h2, h3, by simp [h4]⟩
  have hg : ∀ w k, Good w → Good (w.endGap c k) := by
    intro w k ⟨h1, h2, h3, h4⟩
    rcases w.endGap_cases c k with ⟨-, h⟩ | ⟨g, -, h⟩ <;> rw [h]
    · exact ⟨h1, h2, h3, h4⟩
    · refine ⟨fun o ho => ?_, h2, h3, h4⟩
      rcases Option.or_eq_some_iff.1 ho with ho | ⟨-, ho⟩
      · exact gapOffer_eq_some ho
      · exact h1 o ho
  have he : ∀ w k, Good w → Good (w.endEvent c k) := by
    intro w k ⟨h1, h2, h3, h4⟩
    rcases w.endEvent_cases c k with ⟨-, h⟩ | ⟨e, -, h⟩ <;> rw [h]
    · exact ⟨h1, h2, h3, h4⟩
    · refine ⟨h1, fun o ho => ?_, h3, h4⟩
      rcases Option.or_eq_some_iff.1 ho with ho | ⟨-, ho⟩
      · exact eventOffer_eq_some ho
      · exact h2 o ho
  have hi : ∀ w k, Good w → Good (w.endInterval c k) := by
    intro w k ⟨h1, h2, h3, h4⟩
    rcases w.endInterval_cases c k with ⟨-, h⟩ | ⟨iv, -, h⟩ <;> rw [h]
    · exact ⟨h1, h2, h3, h4⟩
    · refine ⟨h1, h2, h3, fun o ho => ?_⟩
      simp only [Option.some.injEq] at ho
      subst ho
      exact ⟨rfl, rfl⟩
  have ha : ∀ w k, Good w → Good (w.closeAll c k) := fun w k h => hi _ k (he _ k (hg _ k h))
  show Good (channelWork (frameAtBoundary heard s) timed c)
  unfold channelWork ChannelWork.takeTimed
  split
  · exact hd
  · exact ha _ _ hd
  · split
    · unfold ChannelWork.cut
      split
      · exact hi _ _ (he _ _ hd)
      · exact hd
    · exact hd
  · split
    · exact hd
    · exact hd
  · split
    · exact ha _ _ hd
    · exact hd
  · exact ha _ _ hd

end Sys2Proof.Machine
end

