-- ==== Sys2Proof/Laws/Activity.lean ====
section
/-! SUPPORT. Laws of the activity monitor's work at a boundary. -/

namespace Sys2Proof.Machine

/-- An edge of a line touches only the port's flags, and of those only the line's, where the port enables it (R100). -/
theorem PortState.takeEdge_eq (p : PortState) (enables : BitVec 8) (l : Line) :
    p.takeEdge enables l =
      { p with edges := if member enables l then withMember p.edges l true else p.edges } := by
  unfold PortState.takeEdge; split <;> rfl

/-- A forced close leaves no episode, whatever the slice end left (R114). -/
theorem EpisodeStep.force_some (st : EpisodeStep) (cause : Cause) :
    (st.force (some cause)).episode = none ∧
      (st.force (some cause)).offer =
        match st.episode with
        | some e => some (episodeOffer e cause)
        | none => st.offer := by
  unfold EpisodeStep.force
  cases h : st.episode <;> simp [h]

@[simp] theorem EpisodeStep.force_none (st : EpisodeStep) : st.force none = st := rfl

/-- What the slice end of a slice leaves of the activity monitor, for any timed command at the boundary. -/
theorem Activity.atBoundary_some (a : Activity) (t : Tag) (timed : Option Timed) (quietHold : Nat) :
    (a.atBoundary (some t) timed quietHold).1 =
      { a with
        quiet :=
          if timed = some .restart then quietHold
          else nextQuiet (sliceVerdict a t (isTimeStep timed)).active a.quiet quietHold
        newVerdict := some (sliceVerdict a t (isTimeStep timed))
        oldVerdict := a.newVerdict
        highSeen := a.level &&& ~~~a.unseen
        pulse := false
        episode := (a.atBoundary (some t) timed quietHold).1.episode } := rfl

/-- A boundary that ends no slice judges nothing. -/
theorem Activity.atBoundary_none (a : Activity) (timed : Option Timed) (quietHold : Nat) :
    (a.atBoundary none timed quietHold).1 =
      { a with
        quiet := if timed = some .restart then quietHold else a.quiet
        highSeen := a.level &&& ~~~a.unseen
        pulse := false
        episode := (a.atBoundary none timed quietHold).1.episode } := rfl

/-- A time step and RESTART leave no episode (R114). -/
theorem Activity.atBoundary_closes (a : Activity) (slice : Option Tag) (timed : Option Timed) (quietHold : Nat)
    {cause : Cause} (h : episodeCause timed = some cause) : (a.atBoundary slice timed quietHold).1.episode = none := by
  unfold Activity.atBoundary Activity.beginSlice
  rw [h]
  exact (EpisodeStep.force_some _ _).1

/-- Without a forced close the episode is as the slice end leaves it, with its record. -/
theorem Activity.atBoundary_episode (a : Activity) (t : Tag) (timed : Option Timed) (quietHold : Nat)
    (h : episodeCause timed = none) :
    (a.atBoundary (some t) timed quietHold).1.episode =
        (episodeStep a.episode (sliceVerdict a t (isTimeStep timed)) t.cls).episode ∧
      (a.atBoundary (some t) timed quietHold).2 =
        (episodeStep a.episode (sliceVerdict a t (isTimeStep timed)) t.cls).offer := by
  unfold Activity.atBoundary Activity.beginSlice
  rw [h]
  exact ⟨rfl, rfl⟩

/-- What a boundary never changes of the activity monitor. -/
theorem Activity.atBoundary_frame (a : Activity) (slice : Option Tag) (timed : Option Timed) (quietHold : Nat) :
    (a.atBoundary slice timed quietHold).1.level = a.level ∧
      (a.atBoundary slice timed quietHold).1.unseen = a.unseen ∧
      (a.atBoundary slice timed quietHold).1.enable = a.enable := by
  cases slice <;> exact ⟨rfl, rfl, rfl⟩

end Sys2Proof.Machine
end

