-- ==== Sys2Proof/Laws/Batch.lean ====
section
/-! SUPPORT. The batch of a boundary: the place of each record in the List of Batch Order, and that no place is taken
twice (R153). -/

namespace Sys2Proof.Machine

/-! ### The INTERVAL records of a channel -/

/-- The offer is an INTERVAL record of the channel that closed by LENGTH or CLASS_CHANGE. -/
def NaturalClose (c : Channel) (o : Offer) : Prop :=
  ∃ time r, o = ⟨some c, time, .interval r⟩ ∧ (r.cause = .length ∨ r.cause = .classChange)

/-- The offer is an INTERVAL record of the channel that closed by another cause. -/
def ForcedClose (c : Channel) (o : Offer) : Prop :=
  ∃ time r, o = ⟨some c, time, .interval r⟩ ∧ r.cause ≠ .length ∧ r.cause ≠ .classChange

/-- The close check closes by LENGTH or CLASS_CHANGE only (R59). -/
theorem closeStep_natural {x : SliceContext} {c : Channel} {ch : ChannelState} {o : Offer}
    (h : (closeStep x c ch).2 = some o) : NaturalClose c o := by
  rcases closeStep_cases x c ch with ⟨-, h1⟩ | ⟨iv, -, -, h1⟩ | ⟨iv, -, -, -, h1⟩ | ⟨_, -, -, -, h1⟩ <;> rw [h1] at h
  · simp at h
  · simp only [Option.some.injEq] at h
    exact ⟨_, _, h.symm, .inl rfl⟩
  · simp only [Option.some.injEq] at h
    exact ⟨_, _, h.symm, .inr rfl⟩
  · simp at h

/-- The two INTERVAL records that a channel's work can hold: one of a natural close, and one of a forced close, which
takes a timed command (R65, R153). -/
theorem channelWork_intervals (heard : List Byte) (s : State) (timed : Option Timed) (c : Channel) :
    (∀ o, (channelWork (frameAtBoundary heard s) timed c).naturalRecord = some o → NaturalClose c o) ∧
      (∀ o, (channelWork (frameAtBoundary heard s) timed c).forcedRecord = some o → ForcedClose c o) ∧
      (timed = none → (channelWork (frameAtBoundary heard s) timed c).forcedRecord = none) := by
  let Good (w : ChannelWork) : Prop :=
    (∀ o, w.naturalRecord = some o → NaturalClose c o) ∧ (∀ o, w.forcedRecord = some o → ForcedClose c o)
  have hd : Good (deadline (frameAtBoundary heard s) c) ∧ (deadline (frameAtBoundary heard s) c).forcedRecord = none := by
    rcases deadline_cases heard s c with ⟨-, _, h, -⟩ | ⟨_, _, -, -, -, -, h⟩ <;> rw [h]
    · simp [Good, ChannelWork.start]
    · rw [account_eq]
      exact ⟨⟨fun o ho => closeStep_natural ho, by simp⟩, rfl⟩
  have hg : ∀ w k, Good w → Good (w.endGap c k) := by
    intro w k hw
    rcases w.endGap_cases c k with ⟨-, h⟩ | ⟨g, -, h⟩ <;> rw [h] <;> exact hw
  have he : ∀ w k, Good w → Good (w.endEvent c k) := by
    intro w k hw
    rcases w.endEvent_cases c k with ⟨-, h⟩ | ⟨e, -, h⟩ <;> rw [h] <;> exact hw
  have hi : ∀ w k, k ≠ .length → k ≠ .classChange → Good w → Good (w.endInterval c k) := by
    intro w k h1 h2 hw
    rcases w.endInterval_cases c k with ⟨-, h⟩ | ⟨iv, -, h⟩ <;> rw [h]
    · exact hw
    · refine ⟨hw.1, fun o ho => ?_⟩
      simp only [Option.some.injEq] at ho
      exact ⟨_, _, ho.symm, h1, h2⟩
  have ha : ∀ w k, k ≠ .length → k ≠ .classChange → Good w → Good (w.closeAll c k) :=
    fun w k h1 h2 h => hi _ k h1 h2 (he _ k (hg _ k h))
  have hwork : Good (channelWork (frameAtBoundary heard s) timed c) := by
    unfold channelWork ChannelWork.takeTimed
    split
    · exact hd.1
    · exact ha _ _ (by simp) (by simp) hd.1
    · split
      · unfold ChannelWork.cut
        split
        · exact hi _ _ (by simp) (by simp) (he _ _ hd.1)
        · exact hd.1
      · exact hd.1
    · split <;> exact hd.1
    · split
      · exact ha _ _ (by simp) (by simp) hd.1
      · exact hd.1
    · exact ha _ _ (by simp) (by simp) hd.1
  exact ⟨hwork.1, hwork.2, fun h => by subst h; exact hd.2⟩

/-! ### Places -/

/-- The places of a channel's four records (R153). -/
theorem channelWork_places (heard : List Byte) (s : State) (timed : Option Timed) (c : Channel) :
    (∀ o, (channelWork (frameAtBoundary heard s) timed c).gapRecord = some o → batchPlace o = 4 * c.val) ∧
      (∀ o, (channelWork (frameAtBoundary heard s) timed c).eventRecord = some o → batchPlace o = 4 * c.val + 1) ∧
      (∀ o, (channelWork (frameAtBoundary heard s) timed c).naturalRecord = some o → batchPlace o = 4 * c.val + 2) ∧
      (∀ o, (channelWork (frameAtBoundary heard s) timed c).forcedRecord = some o → batchPlace o = 4 * c.val + 3) := by
  obtain ⟨hg, he, -, -⟩ := channelWork_records heard s timed c
  obtain ⟨hn, hf, -⟩ := channelWork_intervals heard s timed c
  refine ⟨fun o ho => ?_, fun o ho => ?_, fun o ho => ?_, fun o ho => ?_⟩
  · obtain ⟨h1, h2⟩ := hg o ho
    unfold batchPlace
    cases hb : o.body <;> simp_all [RecordBody.kind]
  · obtain ⟨h1, h2⟩ := he o ho
    unfold batchPlace
    cases hb : o.body <;> simp_all [RecordBody.kind]
  · obtain ⟨time, r, rfl, h⟩ := hn o ho
    simp [batchPlace, h]
  · obtain ⟨time, r, rfl, h1, h2⟩ := hf o ho
    simp [batchPlace, h1, h2]

theorem pairwise_option {R : Offer → Offer → Prop} (o : Option Offer) : o.toList.Pairwise R := by cases o <;> simp

/-- One channel's records stand in their order, each in its own place among the channel's four (R153). -/
theorem channelWork_ordered (heard : List Byte) (s : State) (timed : Option Timed) (c : Channel) :
    BatchOrdered (channelWork (frameAtBoundary heard s) timed c).records ∧
      ∀ o ∈ (channelWork (frameAtBoundary heard s) timed c).records,
        4 * c.val ≤ batchPlace o ∧ batchPlace o ≤ 4 * c.val + 3 := by
  obtain ⟨hg, he, hn, hf⟩ := channelWork_places heard s timed c
  refine ⟨?_, fun o ho => ?_⟩
  · unfold BatchOrdered ChannelWork.records
    simp only [List.pairwise_append, List.mem_append, Option.mem_toList]
    refine ⟨⟨⟨pairwise_option _, pairwise_option _, fun a ha b hb => ?_⟩, pairwise_option _, fun a ha b hb => ?_⟩,
      pairwise_option _, fun a ha b hb => ?_⟩
    · rw [hg a ha, he b hb]; omega
    · rw [hn b hb]
      rcases ha with ha | ha
      · rw [hg a ha]; omega
      · rw [he a ha]; omega
    · rw [hf b hb]
      rcases ha with (ha | ha) | ha
      · rw [hg a ha]; omega
      · rw [he a ha]; omega
      · rw [hn a ha]; omega
  · rcases ChannelWork.mem_records.1 ho with h | h | h | h
    · rw [hg o h]; omega
    · rw [he o h]; omega
    · rw [hn o h]; omega
    · rw [hf o h]; omega

/-- What a boundary offers of an episode is a PROHIBITED record without a channel (R115). -/
theorem Activity.atBoundary_offer {a : Activity} {slice : Option Tag} {timed : Option Timed} {quietHold : Nat} {o : Offer}
    (h : (a.atBoundary slice timed quietHold).2 = some o) : o.channel = none ∧ ∃ r, o.body = .prohibited r := by
  have hforce : ∀ (st : EpisodeStep) (k : Option Cause),
      (∀ o, st.offer = some o → o.channel = none ∧ ∃ r, o.body = .prohibited r) →
        ∀ o, (st.force k).offer = some o → o.channel = none ∧ ∃ r, o.body = .prohibited r := by
    intro st k hst o ho
    unfold EpisodeStep.force at ho
    split at ho
    · simp only [Option.some.injEq] at ho
      subst ho
      exact ⟨rfl, _, rfl⟩
    · exact hst o ho
  refine hforce ⟨_, _⟩ _ (fun o ho => ?_) o h
  cases slice with
  | none => simp at ho
  | some t =>
    simp only [Activity.judge] at ho
    unfold episodeStep at ho
    repeat' split at ho
    all_goals first
      | (simp at ho; done)
      | (simp only [Option.some.injEq] at ho; subst ho; exact ⟨rfl, _, rfl⟩)

theorem batchPlace_timed (s : State) (now : Time) (t : Timed) : batchPlace (timedOffer s now t) = 33 := by
  cases t <;> rfl

/-- The batch of a boundary stands in the List of Batch Order, and no place of it is taken twice (R153). -/
theorem batch_ordered (heard : List Byte) (s : State) (timed : Option Timed) (now : Time) :
    BatchOrdered (batch (frameAtBoundary heard s) timed now) := by
  have hchan : ∀ o ∈ (Oct.ofFn (channelWork (frameAtBoundary heard s) timed)).toList.flatMap ChannelWork.records,
      batchPlace o ≤ 31 := by
    intro o ho
    simp only [List.mem_flatMap, Oct.mem_toList, Oct.get_ofFn] at ho
    obtain ⟨_, ⟨c, rfl⟩, ho⟩ := ho
    have := ((channelWork_ordered heard s timed c).2 o ho).2
    omega
  have hepisode : ∀ o, ((frameAtBoundary heard s).activity.atBoundary (frameAtBoundary heard s).timebase.slice timed
      (frameAtBoundary heard s).settings.quietHold).2 = some o → batchPlace o = 32 := by
    intro o ho
    obtain ⟨-, r, hr⟩ := Activity.atBoundary_offer ho
    unfold batchPlace
    rw [hr]
  unfold BatchOrdered batch
  simp only [List.pairwise_append, List.mem_append, Option.mem_toList, Option.map_eq_some_iff]
  refine ⟨⟨?_, pairwise_option _, fun a ha b hb => ?_⟩, pairwise_option _, ?_⟩
  · rw [List.pairwise_flatMap, Oct.toList_eq_map, List.pairwise_map]
    refine ⟨fun w hw => ?_, ?_⟩
    · obtain ⟨c, -, rfl⟩ := List.mem_map.1 hw
      rw [Oct.get_ofFn]
      exact (channelWork_ordered heard s timed c).1
    · refine (show (List.finRange 8).Pairwise (· < ·) by decide).imp ?_
      intro c d hcd a ha b hb
      rw [Oct.get_ofFn] at ha hb
      have h1 := (channelWork_ordered heard s timed c).2 a ha
      have h2 := (channelWork_ordered heard s timed d).2 b hb
      have : c.val < d.val := hcd
      omega
  · have := hchan a ha
    rw [hepisode b hb]; omega
  · rintro a ha b ⟨t, -, rfl⟩
    rw [batchPlace_timed]
    rcases ha with ha | ha
    · have := hchan a ha; omega
    · rw [hepisode a ha]; omega

end Sys2Proof.Machine
end

