-- ==== Sys2Proof/Laws/Ports.lean ====
section
/-! SUPPORT. Laws of the taking of a transaction: what it can do to the state, in every case. -/

namespace Sys2Proof.Machine

/-- The state that a command's own rule finds: the transaction ended, its state byte clocked out, and the unread
response discarded (R172, R174). -/
def State.opened (s : State) (p : Port) : State :=
  s.mapPort p fun q => { q with transaction := none, clockedOut := [s.firstByte p], command := .idle }

theorem State.takes_iff {s : State} {p : Port} :
    s.takes p = true ↔ s.ignores p = false ∧ ∀ t, (s.port p).command ≠ .busy t := by
  unfold State.takes
  cases h : (s.port p).command <;> simp

/-- An ignored transaction is over, and nothing else (R172). -/
theorem takeCommand_ignored {p : Port} {answer : State → Answer} {s : State} (h : s.ignores p = true) :
    takeCommand p answer s = s.dropTransaction p := by
  simp [takeCommand, h]

/-- In BUSY the transaction is discarded and COLLIDED is set (R175). -/
theorem takeCommand_busy {p : Port} {answer : State → Answer} {s : State} {t : Timed} (h : s.ignores p = false)
    (hb : (s.port p).command = .busy t) :
    takeCommand p answer s =
      s.mapPort p fun q => { q with transaction := none, clockedOut := [s.firstByte p], collided := true } := by
  simp [takeCommand, h, hb, State.endTransaction]

/-- Otherwise the command is answered (R174). -/
theorem takeCommand_takes {p : Port} {answer : State → Answer} {s : State} (h : s.takes p = true) :
    takeCommand p answer s = (s.opened p).takeAnswer p (answer (s.opened p)) := by
  obtain ⟨hi, hb⟩ := State.takes_iff.1 h
  unfold takeCommand
  simp only [hi, Bool.false_eq_true, ↓reduceIte]
  split
  · exact absurd ‹_› (hb _)
  · simp [State.endTransaction, State.discardResponse, State.opened]
  · simp [State.endTransaction, State.discardResponse, State.opened]

/-- Everything that the taking of a command transaction can do. -/
theorem takeCommand_cases (p : Port) (answer : State → Answer) (s : State) :
    (s.ignores p = true ∧ takeCommand p answer s = s.dropTransaction p) ∨
      (∃ t, s.ignores p = false ∧ (s.port p).command = .busy t ∧ takeCommand p answer s =
        s.mapPort p fun q => { q with transaction := none, clockedOut := [s.firstByte p], collided := true }) ∨
      (s.takes p = true ∧ takeCommand p answer s = (s.opened p).takeAnswer p (answer (s.opened p))) := by
  cases hi : s.ignores p with
  | true => exact .inl ⟨rfl, takeCommand_ignored hi⟩
  | false =>
    by_cases hb : ∃ t, (s.port p).command = .busy t
    · obtain ⟨t, ht⟩ := hb
      exact .inr (.inl ⟨t, rfl, ht, takeCommand_busy hi ht⟩)
    · have h : s.takes p = true := State.takes_iff.2 ⟨hi, fun t ht => hb ⟨t, ht⟩⟩
      exact .inr (.inr ⟨h, takeCommand_takes h⟩)

/-! ### The frame checks -/

@[simp] theorem length_framed (args : List Byte) : (framed args).length = args.length + 1 := by simp [framed]

/-- A well-framed train of arguments passes the checks that the port and the length pass (R173). -/
theorem checkFrame_framed (k : CommandInfo) (p : Port) (args : List Byte) (h : args.length ≤ 250) :
    checkFrame k p (framed args) =
      if k.permits p = false then .refuse .privilege
      else if k.length.fits args.length = false then .refuse .format
      else .ok args := by
  have h1 : (BitVec.ofNat 8 args.length).toNat = args.length := by
    simp
    omega
  simp only [checkFrame, framed, h1]
  rw [if_neg (by omega)]

/-- A command whose frame is in order and whose port may issue it is answered by its own rule (R173, R174). -/
theorem portCommand_framed {k : CommandInfo} {p : Port} {args : List Byte} {rule : List Byte → State → Answer}
    {s : State} (h : s.takes p = true) (hlen : args.length ≤ 250) (hp : k.permits p = true)
    (hfit : k.length.fits args.length = true) :
    portCommand k p (framed args) rule s = .next ((s.opened p).takeAnswer p (rule args (s.opened p))) := by
  rw [portCommand, takeCommand_takes h, checkedAnswer, checkFrame_framed k p args hlen]
  simp [hp, hfit]

/-! ### The answers -/

theorem takeAnswer_complete (s t : State) (p : Port) (status : Status) (data : List Byte) :
    s.takeAnswer p (.complete t status data) = t.mapPort p fun q => { q with command := .done ⟨status, false, data⟩ } :=
  rfl

/-- A refusal leaves the state it finds (R178). -/
theorem opened_takeAnswer_refuse (s : State) (p : Port) (status : Status) :
    (s.opened p).takeAnswer p (refuse (s.opened p) status) = s.refusedWith p status := by
  cases p <;> rfl

/-- An accepted timed command leaves the port BUSY (R179). -/
theorem opened_takeAnswer_wait (s : State) (p : Port) (t : Timed) :
    (s.opened p).takeAnswer p (.wait t) = s.awaits p t := by
  cases p <;> rfl

/-- An answer whose state differs from what the rule found by a change that leaves the ports alone. -/
theorem opened_takeAnswer_complete {s t t' : State} {p : Port} {status : Status} {data data' : List Byte}
    (h : t' = t.mapPort p fun q =>
      { q with transaction := none, clockedOut := [s.firstByte p], command := .idle })
    (hd : data' = data) :
    (s.opened p).takeAnswer p (.complete t' status data') = s.answered p t status data := by
  subst h hd
  cases p <;> rfl

@[simp] theorem State.opened_port (s : State) (p : Port) :
    (s.opened p).port p =
      { s.port p with
        transaction := none
        clockedOut := [s.firstByte p]
        command := .idle } := by
  simp [State.opened]

@[simp] theorem State.opened_channel (s : State) (p : Port) (c : Channel) : (s.opened p).channel c = s.channel c := by
  simp [State.opened]

@[simp] theorem State.opened_nrstLow (s : State) (p : Port) : (s.opened p).nrstLow = s.nrstLow := by simp [State.opened]

@[simp] theorem State.opened_crystalRunning (s : State) (p : Port) : (s.opened p).crystalRunning = s.crystalRunning := by simp [State.opened]

@[simp] theorem State.opened_timebase (s : State) (p : Port) : (s.opened p).timebase = s.timebase := by simp [State.opened]

@[simp] theorem State.opened_headLink (s : State) (p : Port) : (s.opened p).headLink = s.headLink := by simp [State.opened]

@[simp] theorem State.opened_channels (s : State) (p : Port) : (s.opened p).channels = s.channels := by simp [State.opened]

@[simp] theorem State.opened_activity (s : State) (p : Port) : (s.opened p).activity = s.activity := by simp [State.opened]

@[simp] theorem State.opened_settings (s : State) (p : Port) : (s.opened p).settings = s.settings := by simp [State.opened]

@[simp] theorem State.opened_log (s : State) (p : Port) : (s.opened p).log = s.log := by simp [State.opened]

@[simp] theorem State.opened_matrix (s : State) (p : Port) : (s.opened p).matrix = s.matrix := by simp [State.opened]

@[simp] theorem State.opened_shortHighs (s : State) (p : Port) : (s.opened p).shortHighs = s.shortHighs := by simp [State.opened]

@[simp] theorem State.opened_pending (s : State) (p : Port) : (s.opened p).pending = s.pending := by simp [State.opened]

end Sys2Proof.Machine
end

