-- ==== Sys2Proof/Laws/Commands.lean ====
section
/-! SUPPORT. Laws of the port commands: what the taking of one keeps, and, rule by rule, the only fields of the state
that a completed command can have changed. -/

namespace Sys2Proof.Machine

/-- What no change of the ports can spoil and the command's own rule keeps, the taking of the command keeps. -/
theorem takeCommand_keeps {P : State → Prop} (hport : ∀ s p f, P s → P (s.mapPort p f)) {p : Port}
    {answer : State → Answer} {s : State}
    (hanswer : ∀ u t status data, P u → answer u = .complete t status data → P t) (h : P s) :
    P (takeCommand p answer s) := by
  rcases takeCommand_cases p answer s with ⟨-, h1⟩ | ⟨_, -, -, h1⟩ | ⟨-, h1⟩ <;> rw [h1]
  · exact hport _ _ _ h
  · exact hport _ _ _ h
  · have ho : P (s.opened p) := hport _ _ _ h
    cases ha : answer (s.opened p) with
    | wait t =>
      unfold State.takeAnswer
      exact hport _ _ _ ho
    | complete t status data =>
      unfold State.takeAnswer
      exact hport _ _ _ (hanswer _ _ _ _ ho ha)

/-- A refusal completes with the state it finds (R178). -/
theorem refuse_complete {u t : State} {status status' : Status} {data : List Byte}
    (h : refuse u status = .complete t status' data) : t = u := by
  simp only [refuse, Answer.complete.injEq] at h
  exact h.1.symm

/-- The state of an answer that completes. -/
theorem complete_state {u t : State} {status status' : Status} {data data' : List Byte}
    (h : Answer.complete u status data = .complete t status' data') : t = u := by
  simp only [Answer.complete.injEq] at h
  exact h.1.symm

/-- What no change of the ports can spoil and the command's own rule keeps, the command keeps. -/
theorem portCommand_keeps {P : State → Prop} (hport : ∀ s p f, P s → P (s.mapPort p f)) {k : CommandInfo} {p : Port}
    {rest : List Byte} {rule : List Byte → State → Answer} {s t : State}
    (hrule : ∀ args u t status data, P u → rule args u = .complete t status data → P t) (h : P s)
    (ht : portCommand k p rest rule s = .next t) : P t := by
  simp only [portCommand, Host.Outcome.next.injEq] at ht
  subst ht
  refine takeCommand_keeps hport ?_ h
  intro u t status data hu ha
  unfold checkedAnswer at ha
  split at ha
  · rw [refuse_complete ha]
    exact hu
  · exact hrule _ _ _ _ _ hu ha

/-! ### What each rule can change -/

/-- Only a refusal completes at once: the command is timed. -/
theorem setTimeRule_frame {args : List Byte} {u t : State} {status : Status} {data : List Byte}
    (h : setTimeRule args u = .complete t status data) : t = u := by
  unfold setTimeRule at h
  repeat' split at h
  all_goals first | exact refuse_complete h | simp at h

theorem setCalendarSlotsRule_frame {p : Port} {args : List Byte} {u t : State} {status : Status} {data : List Byte}
    (h : setCalendarSlotsRule p args u = .complete t status data) : t = { u with timebase := t.timebase, log := t.log } := by
  simp only [setCalendarSlotsRule] at h
  split at h
  · rw [refuse_complete h]
  · split at h
    · split at h
      · rw [refuse_complete h]
      · rw [complete_state h]
        rfl
    · rw [refuse_complete h]

theorem setClassRule_frame {p : Port} {args : List Byte} {u t : State} {status : Status} {data : List Byte}
    (h : setClassRule p args u = .complete t status data) : t = { u with timebase := t.timebase, log := t.log } := by
  simp only [setClassRule] at h
  repeat' split at h
  all_goals first
    | exact refuse_complete h
    | (rw [refuse_complete h]; done)
    | (rw [complete_state h]; done)
    | (rw [complete_state h]; rfl)
    | simp at h

theorem setDayRulesRule_frame {p : Port} {args : List Byte} {u t : State} {status : Status} {data : List Byte}
    (h : setDayRulesRule p args u = .complete t status data) : t = { u with timebase := t.timebase, log := t.log } := by
  simp only [setDayRulesRule] at h
  repeat' split at h
  all_goals first
    | exact refuse_complete h
    | (rw [refuse_complete h]; done)
    | (rw [complete_state h]; done)
    | (rw [complete_state h]; rfl)
    | simp at h

theorem addRestDayRule_frame {p : Port} {args : List Byte} {u t : State} {status : Status} {data : List Byte}
    (h : addRestDayRule p args u = .complete t status data) : t = { u with timebase := t.timebase, log := t.log } := by
  simp only [addRestDayRule] at h
  repeat' split at h
  all_goals first
    | exact refuse_complete h
    | (rw [refuse_complete h]; done)
    | (rw [complete_state h]; done)
    | (rw [complete_state h]; rfl)
    | simp at h

theorem dropRestDayRule_frame {p : Port} {args : List Byte} {u t : State} {status : Status} {data : List Byte}
    (h : dropRestDayRule p args u = .complete t status data) : t = { u with timebase := t.timebase, log := t.log } := by
  simp only [dropRestDayRule] at h
  repeat' split at h
  all_goals first
    | exact refuse_complete h
    | (rw [refuse_complete h]; done)
    | (rw [complete_state h]; done)
    | (rw [complete_state h]; rfl)
    | simp at h

theorem channelOnRule_frame {args : List Byte} {u t : State} {status : Status} {data : List Byte}
    (h : channelOnRule args u = .complete t status data) : t = u := by
  simp only [channelOnRule] at h
  repeat' split at h
  all_goals first
    | exact refuse_complete h
    | (rw [refuse_complete h]; done)
    | (rw [complete_state h]; done)
    | (rw [complete_state h]; rfl)
    | simp at h

theorem channelOffRule_frame {args : List Byte} {u t : State} {status : Status} {data : List Byte}
    (h : channelOffRule args u = .complete t status data) : t = u := by
  simp only [channelOffRule] at h
  repeat' split at h
  all_goals first
    | exact refuse_complete h
    | (rw [refuse_complete h]; done)
    | (rw [complete_state h]; done)
    | (rw [complete_state h]; rfl)
    | simp at h

theorem clearCountersRule_frame {p : Port} {args : List Byte} {u t : State} {status : Status} {data : List Byte}
    (h : clearCountersRule p args u = .complete t status data) : t = { u with headLink := t.headLink, channels := t.channels, log := t.log } := by
  simp only [clearCountersRule] at h
  repeat' split at h
  all_goals first
    | exact refuse_complete h
    | (rw [refuse_complete h]; done)
    | (rw [complete_state h]; done)
    | (rw [complete_state h]; rfl)
    | simp at h

/-- Only a refusal completes at once: the command is timed. -/
theorem cutRule_frame {args : List Byte} {u t : State} {status : Status} {data : List Byte}
    (h : cutRule args u = .complete t status data) : t = u := by
  unfold cutRule at h
  repeat' split at h
  all_goals first | exact refuse_complete h | simp at h

theorem setGapRule_frame {p : Port} {args : List Byte} {u t : State} {status : Status} {data : List Byte}
    (h : setGapRule p args u = .complete t status data) : t = { u with settings := t.settings, log := t.log } := by
  simp only [setGapRule] at h
  repeat' split at h
  all_goals first
    | exact refuse_complete h
    | (rw [refuse_complete h]; done)
    | (rw [complete_state h]; done)
    | (rw [complete_state h]; rfl)
    | simp at h

theorem setActivityLinesRule_frame {p : Port} {args : List Byte} {u t : State} {status : Status} {data : List Byte}
    (h : setActivityLinesRule p args u = .complete t status data) : t = { u with activity := t.activity, log := t.log } := by
  simp only [setActivityLinesRule] at h
  repeat' split at h
  all_goals first
    | exact refuse_complete h
    | (rw [refuse_complete h]; done)
    | (rw [complete_state h]; done)
    | (rw [complete_state h]; rfl)
    | simp at h

theorem setBackgroundRule_frame {p : Port} {args : List Byte} {u t : State} {status : Status} {data : List Byte}
    (h : setBackgroundRule p args u = .complete t status data) : t = { u with settings := t.settings, log := t.log } := by
  simp only [setBackgroundRule] at h
  repeat' split at h
  all_goals first
    | exact refuse_complete h
    | (rw [refuse_complete h]; done)
    | (rw [complete_state h]; done)
    | (rw [complete_state h]; rfl)
    | simp at h

theorem setEventRule_frame {p : Port} {args : List Byte} {u t : State} {status : Status} {data : List Byte}
    (h : setEventRule p args u = .complete t status data) : t = { u with settings := t.settings, log := t.log } := by
  simp only [setEventRule] at h
  repeat' split at h
  all_goals first
    | exact refuse_complete h
    | (rw [refuse_complete h]; done)
    | (rw [complete_state h]; done)
    | (rw [complete_state h]; rfl)
    | simp at h

theorem lockRoutingRule_frame {p : Port} {args : List Byte} {u t : State} {status : Status} {data : List Byte}
    (h : lockRoutingRule p args u = .complete t status data) : t = { u with matrix := t.matrix, log := t.log } := by
  simp only [lockRoutingRule] at h
  repeat' split at h
  all_goals first
    | exact refuse_complete h
    | (rw [refuse_complete h]; done)
    | (rw [complete_state h]; done)
    | (rw [complete_state h]; rfl)
    | simp at h

/-- Only a refusal completes at once: the command is timed. -/
theorem restartRule_frame {args : List Byte} {u t : State} {status : Status} {data : List Byte}
    (h : restartRule args u = .complete t status data) : t = u := by
  unfold restartRule at h
  repeat' split at h
  all_goals first | exact refuse_complete h | simp at h

theorem fetchRule_frame {args : List Byte} {u t : State} {status : Status} {data : List Byte}
    (h : fetchRule args u = .complete t status data) : t = u := by
  simp only [fetchRule] at h
  repeat' split at h
  all_goals first
    | exact refuse_complete h
    | (rw [refuse_complete h]; done)
    | (rw [complete_state h]; done)
    | (rw [complete_state h]; rfl)
    | simp at h

theorem releaseRule_frame {args : List Byte} {u t : State} {status : Status} {data : List Byte}
    (h : releaseRule args u = .complete t status data) : t = { u with log := t.log } := by
  simp only [releaseRule] at h
  repeat' split at h
  all_goals first
    | exact refuse_complete h
    | (rw [refuse_complete h]; done)
    | (rw [complete_state h]; done)
    | (rw [complete_state h]; rfl)
    | simp at h

theorem setWarnFractionRule_frame {p : Port} {args : List Byte} {u t : State} {status : Status} {data : List Byte}
    (h : setWarnFractionRule p args u = .complete t status data) : t = { u with channels := t.channels, settings := t.settings, log := t.log } := by
  simp only [setWarnFractionRule] at h
  repeat' split at h
  all_goals first
    | exact refuse_complete h
    | (rw [refuse_complete h]; done)
    | (rw [complete_state h]; done)
    | (rw [complete_state h]; rfl)
    | simp at h

theorem activityPulseRule_frame {args : List Byte} {u t : State} {status : Status} {data : List Byte}
    (h : activityPulseRule args u = .complete t status data) : t = { u with activity := t.activity } := by
  simp only [activityPulseRule] at h
  repeat' split at h
  all_goals first
    | exact refuse_complete h
    | (rw [refuse_complete h]; done)
    | (rw [complete_state h]; done)
    | (rw [complete_state h]; rfl)
    | simp at h

theorem peekRule_frame {args : List Byte} {u t : State} {status : Status} {data : List Byte}
    (h : peekRule args u = .complete t status data) : t = { u with log := t.log } := by
  simp only [peekRule] at h
  repeat' split at h
  all_goals first
    | exact refuse_complete h
    | (rw [refuse_complete h]; done)
    | (rw [complete_state h]; done)
    | (rw [complete_state h]; rfl)
    | simp at h

theorem advanceRule_frame {args : List Byte} {u t : State} {status : Status} {data : List Byte}
    (h : advanceRule args u = .complete t status data) : t = { u with log := t.log } := by
  simp only [advanceRule] at h
  repeat' split at h
  all_goals first
    | exact refuse_complete h
    | (rw [refuse_complete h]; done)
    | (rw [complete_state h]; done)
    | (rw [complete_state h]; rfl)
    | simp at h

theorem setRouteRule_frame {p : Port} {args : List Byte} {u t : State} {status : Status} {data : List Byte}
    (h : setRouteRule p args u = .complete t status data) : t = { u with matrix := t.matrix, log := t.log } := by
  simp only [setRouteRule] at h
  repeat' split at h
  all_goals first
    | exact refuse_complete h
    | (rw [refuse_complete h]; done)
    | (rw [complete_state h]; done)
    | (rw [complete_state h]; rfl)
    | simp at h

theorem setEdgesRule_frame {p : Port} {args : List Byte} {u t : State} {status : Status} {data : List Byte}
    (h : setEdgesRule p args u = .complete t status data) : ∃ f, t = u.mapPort p f := by
  simp only [setEdgesRule] at h
  repeat' split at h
  all_goals first
    | exact ⟨fun q => q, (refuse_complete h).trans (State.mapPort_id u p).symm⟩
    | exact ⟨_, complete_state h⟩

theorem clearEdgesRule_frame {p : Port} {args : List Byte} {u t : State} {status : Status} {data : List Byte}
    (h : clearEdgesRule p args u = .complete t status data) : ∃ f, t = u.mapPort p f := by
  simp only [clearEdgesRule] at h
  repeat' split at h
  all_goals first
    | exact ⟨fun q => q, (refuse_complete h).trans (State.mapPort_id u p).symm⟩
    | exact ⟨_, complete_state h⟩

theorem readEdgesRule_frame {p : Port} {args : List Byte} {u t : State} {status : Status} {data : List Byte}
    (h : readEdgesRule p args u = .complete t status data) : t = u := by
  simp only [readEdgesRule] at h
  repeat' split at h
  all_goals first
    | exact refuse_complete h
    | (rw [refuse_complete h]; done)
    | (rw [complete_state h]; done)
    | (rw [complete_state h]; rfl)
    | simp at h

theorem setAttentionRule_frame {p : Port} {args : List Byte} {u t : State} {status : Status} {data : List Byte}
    (h : setAttentionRule p args u = .complete t status data) : ∃ f, t = u.mapPort p f := by
  simp only [setAttentionRule] at h
  repeat' split at h
  all_goals first
    | exact ⟨fun q => q, (refuse_complete h).trans (State.mapPort_id u p).symm⟩
    | exact ⟨_, complete_state h⟩

theorem latchRule_frame {p : Port} {args : List Byte} {u t : State} {status : Status} {data : List Byte}
    (h : latchRule p args u = .complete t status data) : ∃ f, t = u.mapPort p f := by
  simp only [latchRule] at h
  repeat' split at h
  all_goals first
    | exact ⟨fun q => q, (refuse_complete h).trans (State.mapPort_id u p).symm⟩
    | exact ⟨_, complete_state h⟩

theorem readSnapshotRule_frame {p : Port} {args : List Byte} {u t : State} {status : Status} {data : List Byte}
    (h : readSnapshotRule p args u = .complete t status data) : ∃ f, t = u.mapPort p f := by
  simp only [readSnapshotRule] at h
  repeat' split at h
  all_goals first
    | exact ⟨fun q => q, (refuse_complete h).trans (State.mapPort_id u p).symm⟩
    | exact ⟨_, complete_state h⟩

theorem readDeviceStatusRule_frame {p : Port} {args : List Byte} {u t : State} {status : Status} {data : List Byte}
    (h : readDeviceStatusRule p args u = .complete t status data) : t = u := by
  simp only [readDeviceStatusRule] at h
  repeat' split at h
  all_goals first
    | exact refuse_complete h
    | (rw [refuse_complete h]; done)
    | (rw [complete_state h]; done)
    | (rw [complete_state h]; rfl)
    | simp at h

theorem readChannelStatusRule_frame {args : List Byte} {u t : State} {status : Status} {data : List Byte}
    (h : readChannelStatusRule args u = .complete t status data) : t = u := by
  simp only [readChannelStatusRule] at h
  repeat' split at h
  all_goals first
    | exact refuse_complete h
    | (rw [refuse_complete h]; done)
    | (rw [complete_state h]; done)
    | (rw [complete_state h]; rfl)
    | simp at h

theorem readConfigRule_frame {args : List Byte} {u t : State} {status : Status} {data : List Byte}
    (h : readConfigRule args u = .complete t status data) : t = u := by
  simp only [readConfigRule] at h
  repeat' split at h
  all_goals first
    | exact refuse_complete h
    | (rw [refuse_complete h]; done)
    | (rw [complete_state h]; done)
    | (rw [complete_state h]; rfl)
    | simp at h

end Sys2Proof.Machine
end

