-- ==== Sys2Proof/Laws/Forced.lean ====
section
/-! SUPPORT. What the forced ends of a channel's work offer, and the boundary from the state with nothing pending, which
shows what they find. -/

namespace Sys2Proof.Machine

/-! ### The records of forced ends -/

theorem mem_forcedGap {c : Channel} {g : GapRun} {cause : Cause} {o : Offer} :
    o ∈ forcedGap c (some g) cause ↔ gapOffer c g cause none = some o := by
  unfold forcedGap gapOffer Config.gapRecordLength
  dsimp only
  by_cases h : g.length < 8
  · rw [if_pos h, if_neg (by omega)]
    simp
  · rw [if_neg h, if_pos (by omega)]
    simp [eq_comm]

theorem mem_forcedEvent {c : Channel} {e : Event} {cause : Cause} {o : Offer} :
    o ∈ forcedEvent c (some e) cause ↔ eventOffer c e cause = some o := by
  unfold forcedEvent eventOffer
  dsimp only
  split
  · simp
  · simp only [List.mem_singleton, Option.some.injEq]
    exact eq_comm

/-- A forced record names its channel and is of kind INTERVAL, EVENT or GAP. -/
theorem forcedRecords_kind {c : Channel} {ch : ChannelState} {cause : Cause} {o : Offer}
    (h : o ∈ forcedRecords c ch cause) :
    o.channel = some c ∧ (o.body.kind = 1 ∨ o.body.kind = 2 ∨ o.body.kind = 3) := by
  unfold forcedRecords forcedGap forcedEvent forcedInterval at h
  simp only [List.mem_append] at h
  rcases h with (h | h) | h <;> (repeat' split at h) <;> simp at h <;> subst h <;> simp [RecordBody.kind]

/-- The work of a channel before any forced end: an account that offered a GAP or an EVENT record left no run or event
open, and no forced record is offered yet. -/
structure ChannelWork.Unforced (w : ChannelWork) : Prop where
  gap : w.gapRecord ≠ none → w.ch.gap = none
  event : w.eventRecord ≠ none → w.ch.event = none
  forced : w.forcedRecord = none

theorem account_unforced (x : SliceContext) (c : Channel) (ch : ChannelState) (r : SliceResult) :
    (account x c ch r).Unforced := by
  rw [account_eq]
  refine ⟨?_, ?_, rfl⟩
  · unfold accountGap gapStep endRunByLevel
    dsimp only
    repeat' split
    all_goals simp
  · unfold accountEvent
    dsimp only
    cases ch.event with
    | none =>
      rcases eventStep_idle_cases x c (accountGap x c ch r).interval r with ⟨-, h⟩ | ⟨_, _, _, -, -, h⟩ <;> rw [h] <;>
        simp
    | some e =>
      change (openContextStep x c _ e r).offer ≠ none → (openContextStep x c _ e r).event = none
      have settled : ∀ iv e' cause, (settleEvent c iv e' cause).offer ≠ none → (settleEvent c iv e' cause).event = none := by
        intro iv e' cause
        cases cause <;> simp [settleEvent]
      rcases openContextStep_cases x c (accountGap x c ch r).interval e r with ⟨_, _, _, -, -, h⟩ | ⟨-, h⟩ <;> rw [h] <;>
        exact settled _ _ _

theorem deadline_unforced (heard : List Byte) (s : State) (c : Channel) :
    (deadline (frameAtBoundary heard s) c).Unforced := by
  rcases deadline_cases heard s c with ⟨-, _, h, -⟩ | ⟨_, _, -, -, -, -, h⟩ <;> rw [h]
  · exact ⟨fun h => absurd rfl h, fun h => absurd rfl h, rfl⟩
  · exact account_unforced _ _ _ _

theorem ChannelWork.endGap_records {w : ChannelWork} (h : w.gapRecord ≠ none → w.ch.gap = none) (c : Channel)
    (cause : Cause) (o : Offer) :
    (w.endGap c cause).gapRecord = some o ↔ w.gapRecord = some o ∨ o ∈ forcedGap c w.ch.gap cause := by
  rcases w.endGap_cases c cause with ⟨h1, h2⟩ | ⟨g, h1, h2⟩ <;> rw [h2]
  · simp [h1, forcedGap]
  · have h3 : w.gapRecord = none := by
      by_contra hn
      simp [h1] at h
      exact hn h
    simp [h3, h1, mem_forcedGap]

theorem ChannelWork.endEvent_records {w : ChannelWork} (h : w.eventRecord ≠ none → w.ch.event = none) (c : Channel)
    (cause : Cause) (o : Offer) :
    (w.endEvent c cause).eventRecord = some o ↔ w.eventRecord = some o ∨ o ∈ forcedEvent c w.ch.event cause := by
  rcases w.endEvent_cases c cause with ⟨h1, h2⟩ | ⟨e, h1, h2⟩ <;> rw [h2]
  · simp [h1, forcedEvent]
  · have h3 : w.eventRecord = none := by
      by_contra hn
      simp [h1] at h
      exact hn h
    simp [h3, h1, mem_forcedEvent]

theorem ChannelWork.endInterval_records {w : ChannelWork} (h : w.forcedRecord = none) (c : Channel) (cause : Cause)
    (o : Offer) : (w.endInterval c cause).forcedRecord = some o ↔ o ∈ forcedInterval c w.ch.interval cause := by
  rcases w.endInterval_cases c cause with ⟨h1, h2⟩ | ⟨iv, h1, h2⟩ <;> rw [h2]
  · simp [h1, h, forcedInterval]
  · simp [h1, forcedInterval, intervalOffer, eq_comm]

/-- The end of a gap run touches nothing of the event and the interval, nor their records. -/
theorem ChannelWork.endGap_frame (w : ChannelWork) (c : Channel) (cause : Cause) :
    (w.endGap c cause).eventRecord = w.eventRecord ∧ (w.endGap c cause).naturalRecord = w.naturalRecord ∧
      (w.endGap c cause).forcedRecord = w.forcedRecord ∧ (w.endGap c cause).ch.event = w.ch.event ∧
      (w.endGap c cause).ch.interval = w.ch.interval := by
  rcases w.endGap_cases c cause with ⟨-, h⟩ | ⟨g, -, h⟩ <;> rw [h] <;> exact ⟨rfl, rfl, rfl, rfl, rfl⟩

/-- The close of an event touches nothing of the interval, nor the other records. -/
theorem ChannelWork.endEvent_frame (w : ChannelWork) (c : Channel) (cause : Cause) :
    (w.endEvent c cause).gapRecord = w.gapRecord ∧ (w.endEvent c cause).naturalRecord = w.naturalRecord ∧
      (w.endEvent c cause).forcedRecord = w.forcedRecord ∧ (w.endEvent c cause).ch.interval = w.ch.interval := by
  rcases w.endEvent_cases c cause with ⟨-, h⟩ | ⟨e, -, h⟩ <;> rw [h] <;> exact ⟨rfl, rfl, rfl, rfl⟩

/-- The close of an interval touches no other record. -/
theorem ChannelWork.endInterval_frame (w : ChannelWork) (c : Channel) (cause : Cause) :
    (w.endInterval c cause).gapRecord = w.gapRecord ∧ (w.endInterval c cause).naturalRecord = w.naturalRecord ∧
      (w.endInterval c cause).eventRecord = w.eventRecord := by
  rcases w.endInterval_cases c cause with ⟨-, h⟩ | ⟨iv, -, h⟩ <;> rw [h] <;> exact ⟨rfl, rfl, rfl⟩

/-- All forced ends of a time step, CHANNEL_OFF or RESTART add exactly their records (R65, R90, R125). -/
theorem ChannelWork.closeAll_records {w : ChannelWork} (h : w.Unforced) (c : Channel) (cause : Cause) (o : Offer) :
    o ∈ (w.closeAll c cause).records ↔ o ∈ w.records ∨ o ∈ forcedRecords c w.ch cause := by
  obtain ⟨a1, a2, a3, a4, a5⟩ := w.endGap_frame c cause
  obtain ⟨b1, b2, b3, b4⟩ := (w.endGap c cause).endEvent_frame c cause
  obtain ⟨c1, c2, c3⟩ := ((w.endGap c cause).endEvent c cause).endInterval_frame c cause
  rw [mem_records, mem_records]
  unfold closeAll forcedRecords
  dsimp only
  rw [c1, c2, c3, b1, b2, a2, endGap_records h.gap, endEvent_records (by rw [a1, a4]; exact h.event),
    endInterval_records (by rw [b3, a3]; exact h.forced), a1, a4, b4, a5, h.forced]
  simp only [List.mem_append]
  tauto

/-- A CUT that closes the interval adds its record and the event's, and none of a gap run (R66, R67). -/
theorem ChannelWork.cut_records {w : ChannelWork} (h : w.Unforced) (c : Channel) (hl : w.ch.link ≠ .off)
    (hi : w.ch.interval ≠ none) (o : Offer) :
    o ∈ (w.cut c).records ↔ o ∈ w.records ∨ o ∈ forcedRecords c { w.ch with gap := none } .cut := by
  obtain ⟨b1, b2, b3, b4⟩ := w.endEvent_frame c .cut
  obtain ⟨c1, c2, c3⟩ := (w.endEvent c .cut).endInterval_frame c .cut
  rw [mem_records, mem_records]
  unfold cut forcedRecords
  rw [if_pos (by simp [ChannelState.enabled, hl, Option.isSome_iff_ne_none, hi]), c1, c2, c3, b1, b2,
    endEvent_records h.event, endInterval_records (by rw [b3]; exact h.forced), b4, h.forced]
  simp only [List.mem_append, forcedGap, List.not_mem_nil, false_or, reduceCtorEq, or_false]
  tauto

/-! ### The boundary with nothing pending -/

@[simp] theorem withoutTimed_pendingTimed (s : State) : s.withoutTimed.pendingTimed = none := rfl
@[simp] theorem withoutTimed_clockRuns (s : State) : s.withoutTimed.clockRuns = s.clockRuns := rfl

/-- What a frame does at a boundary does not depend on what is pending. -/
theorem frameAtBoundary_withoutTimed (heard : List Byte) (s : State) :
    frameAtBoundary heard s.withoutTimed = (frameAtBoundary heard s).withoutTimed := by
  have key : ∀ (frame : List Byte) (t : State), acceptFrame frame t.withoutTimed = (acceptFrame frame t).withoutTimed := by
    intro frame t
    unfold acceptFrame
    repeat' split
    all_goals simp_all [State.mapChannel, State.withoutTimed]
  have hd : s.withoutTimed.headLink.driverOn = s.headLink.driverOn := rfl
  have hs : s.withoutTimed.timebase.slice = s.timebase.slice := rfl
  unfold frameAtBoundary
  rw [hd, hs]
  split
  · rfl
  · split
    · exact key (s.headLink.inFrame ++ heard) { s with headLink := { s.headLink with inFrame := [] } }
    · rfl

/-- With nothing pending, a boundary leaves each channel as its deadline does. -/
theorem boundaryWork_withoutTimed_channel (heard : List Byte) (s : State) (c : Channel) :
    (boundaryWork (frameAtBoundary heard s.withoutTimed)).channel c = (deadline (frameAtBoundary heard s) c).ch := by
  rw [boundaryWork_channel, frameAtBoundary_pendingTimed, frameAtBoundary_withoutTimed]
  rfl

/-- With nothing pending, the offers of a boundary are those of the deadlines and of the slice end. -/
theorem mem_batch_withoutTimed {heard : List Byte} {s : State} {now : Time} {o : Offer} :
    o ∈ batch (frameAtBoundary heard s.withoutTimed) none now ↔
      (∃ c, o ∈ (deadline (frameAtBoundary heard s) c).records) ∨
        (s.activity.atBoundary s.timebase.slice none s.settings.quietHold).2 = some o := by
  have h : ∀ c, channelWork (frameAtBoundary heard s).withoutTimed none c = deadline (frameAtBoundary heard s) c :=
    fun _ => rfl
  rw [mem_batch, frameAtBoundary_withoutTimed]
  simp only [h]
  simp [State.withoutTimed]

end Sys2Proof.Machine
end

