-- ==== Sys2Proof/Laws/Steps.lean ====
section
/-! SUPPORT. What a step can do, said once for each part of the state: the log, the timebase, the settings, the matrix,
the activity monitor and the channels. -/

set_option linter.unusedTactic false
set_option linter.unreachableTactic false

namespace Sys2Proof.Machine

/-- A step idles on an empty queue, or runs the command at its front. -/
theorem step_cases {s t : State} (h : step s = .next t) :
    (s.pending = [] ∧ t = s) ∨ ∃ i rest, s.pending = i :: rest ∧ exec i { s with pending := rest } = .next t := by
  unfold step at h
  split at h
  · rename_i hp
    simp only [Host.Outcome.next.injEq] at h
    exact .inl ⟨hp, h.symm⟩
  · rename_i hp
    exact .inr ⟨_, _, hp, h⟩

theorem next_inj {a b : State} (h : (Host.Outcome.next a : Host.Outcome State Fault Refusal) = .next b) : b = a := by
  simpa using h.symm

/-- What the taking of a command does to a part of the state that holds nothing of the ports: nothing, or what the
command's own rule does to it. -/
theorem portCommand_part {α : Type} (part : State → α) (hpart : ∀ s p f, part (s.mapPort p f) = part s)
    {k : CommandInfo} {p : Port} {rest : List Byte} {rule : List Byte → State → Answer} {s t : State}
    (ht : portCommand k p rest rule s = .next t) :
    part t = part s ∨
      ∃ args u status data, rule args (s.opened p) = .complete u status data ∧ part t = part u ∧
        s.takes p = true ∧ k.permits p = true := by
  rw [next_inj ht]
  rcases takeCommand_cases p (checkedAnswer k p rest rule) s with ⟨-, h1⟩ | ⟨_, -, -, h1⟩ | ⟨hk, h1⟩ <;> rw [h1]
  · exact .inl (hpart _ _ _)
  · exact .inl (hpart _ _ _)
  · cases ha : checkedAnswer k p rest rule (s.opened p) with
    | wait t =>
      unfold State.takeAnswer
      exact .inl ((hpart _ _ _).trans (hpart _ _ _))
    | complete u status data =>
      unfold State.takeAnswer
      unfold checkedAnswer at ha
      split at ha
      · rw [refuse_complete ha]
        exact .inl ((hpart _ _ _).trans (hpart _ _ _))
      · rename_i hc
        refine .inr ⟨_, u, _, _, ha, hpart _ _ _, hk, ?_⟩
        unfold checkFrame at hc
        repeat' split at hc
        all_goals simp_all

/-- A rule that changes nothing of a part leaves it as it stands. -/
theorem portCommand_part_same {α : Type} (part : State → α) (hpart : ∀ s p f, part (s.mapPort p f) = part s)
    {k : CommandInfo} {p : Port} {rest : List Byte} {rule : List Byte → State → Answer} {s t : State}
    (ht : portCommand k p rest rule s = .next t)
    (hrule : ∀ args u status data, rule args (s.opened p) = .complete u status data →
      part u = part (s.opened p)) : part t = part s := by
  rcases portCommand_part part hpart ht with h | ⟨args, u, st, d, hr, hu, -, -⟩
  · exact h
  · rw [hu, hrule _ _ _ _ hr]
    exact hpart _ _ _

/-! ### Parts -/

theorem reachBoundary_cases (heard : List Byte) (s : State) :
    (s.clockRuns = false ∧ reachBoundary heard s = s) ∨
      (s.clockRuns = true ∧ reachBoundary heard s = boundaryWork (frameAtBoundary heard s)) := by
  unfold reachBoundary
  cases h : s.clockRuns <;> simp

theorem reachBoundaryIf_cases (occurs : State → Bool) (heard : List Byte) (s : State) :
    reachBoundaryIf occurs heard s = s ∨
      (s.clockRuns = true ∧ reachBoundaryIf occurs heard s = boundaryWork (frameAtBoundary heard s)) := by
  unfold reachBoundaryIf
  split
  · rename_i h
    simp only [Bool.and_eq_true] at h
    rcases reachBoundary_cases heard s with ⟨h1, -⟩ | h1
    · simp [h1] at h
    · exact .inr h1
  · exact .inl rfl

theorem readResponse_part {α : Type} (part : State → α) (hpart : ∀ s p f, part (s.mapPort p f) = part s) (p : Port)
    (rest : List Byte) (s : State) : part (readResponse p rest s) = part s := by
  unfold readResponse
  split
  · exact hpart _ _ _
  · exact (hpart _ _ _).trans (hpart _ _ _)

theorem unknownCommand_part {α : Type} (part : State → α) (hpart : ∀ s p f, part (s.mapPort p f) = part s) {p : Port}
    {code : Byte} {rest : List Byte} {s t : State} (h : execUnknownCommand p code rest s = .next t) :
    part t = part s := by
  unfold execUnknownCommand at h
  split at h
  · simp at h
  · rw [next_inj h]
    rcases takeCommand_cases p (fun s => refuse s .unknown) s with ⟨-, h1⟩ | ⟨_, -, -, h1⟩ | ⟨-, h1⟩ <;> rw [h1]
    · exact hpart _ _ _
    · exact hpart _ _ _
    · unfold State.takeAnswer refuse
      exact (hpart _ _ _).trans (hpart _ _ _)

/-- What SET_CLASS stores lies in its ranges (R17). -/
theorem storedClass_inRange (limit : Nat) (length : IntervalLength) (lmax peak : Nat) (plant : Bool) :
    (storedClass limit length lmax peak plant).InRange :=
  ⟨clamp_bounds (by decide) _, clamp_bounds (by decide) _, clamp_bounds (by decide) _⟩

/-- All that a step can do to the log: leave it, reset it, drop its records at a pin reset, take a batch of offers, release
the oldest record, bring the cursor up, or move it on. -/
theorem exec_log {i : Instr} {s t : State} (h : exec i s = .next t) :
    t.log = s.log ∨ t.log = Log.reset ∨ t.log = { s.log with records := [], openLoss := none } ∨
      (∃ time offers, t.log = s.log.takeAll time offers) ∨ t.log = s.log.dropOldest ∨ t.log = s.log.catchUp ∨
      (s.log.lag ≠ 0 ∧ t.log = s.log.advanceCursor) := by
  cases i
  case powerOn =>
    rw [next_inj h]
    exact .inr (.inl rfl)
  case sliceClockStart =>
    rw [next_inj h]
    exact .inl rfl
  case nrstLow =>
    rw [next_inj h]
    split
    · exact .inl rfl
    · exact .inr (.inr (.inl rfl))
  case nrstRelease =>
    rw [next_inj h]
    split
    · exact .inr (.inl rfl)
    · exact .inl rfl
  case boundary =>
    rw [next_inj h]
    rcases reachBoundary_cases _ s with ⟨-, h1⟩ | ⟨-, h1⟩ <;> rw [h1]
    · exact .inl rfl
    · exact .inr (.inr (.inr (.inl ⟨_, _, by rw [boundaryWork_log, frameAtBoundary_log]⟩)))
  case dayRollover =>
    rw [next_inj h]
    rcases reachBoundaryIf_cases _ _ s with h1 | ⟨-, h1⟩ <;> rw [h1]
    · exact .inl rfl
    · exact .inr (.inr (.inr (.inl ⟨_, _, by rw [boundaryWork_log, frameAtBoundary_log]⟩)))
  case dayWrap =>
    rw [next_inj h]
    rcases reachBoundaryIf_cases _ _ s with h1 | ⟨-, h1⟩ <;> rw [h1]
    · exact .inl rfl
    · exact .inr (.inr (.inr (.inl ⟨_, _, by rw [boundaryWork_log, frameAtBoundary_log]⟩)))
  case linkAcquired =>
    rw [next_inj h]
    rcases reachBoundaryIf_cases _ _ s with h1 | ⟨-, h1⟩ <;> rw [h1]
    · exact .inl rfl
    · exact .inr (.inr (.inr (.inl ⟨_, _, by rw [boundaryWork_log, frameAtBoundary_log]⟩)))
  case headLoss =>
    rw [next_inj h]
    rcases reachBoundaryIf_cases _ _ s with h1 | ⟨-, h1⟩ <;> rw [h1]
    · exact .inl rfl
    · exact .inr (.inr (.inr (.inl ⟨_, _, by rw [boundaryWork_log, frameAtBoundary_log]⟩)))
  case eventHoldClose =>
    rw [next_inj h]
    rcases reachBoundaryIf_cases _ _ s with h1 | ⟨-, h1⟩ <;> rw [h1]
    · exact .inl rfl
    · exact .inr (.inr (.inr (.inl ⟨_, _, by rw [boundaryWork_log, frameAtBoundary_log]⟩)))
  case eventLongClose =>
    rw [next_inj h]
    rcases reachBoundaryIf_cases _ _ s with h1 | ⟨-, h1⟩ <;> rw [h1]
    · exact .inl rfl
    · exact .inr (.inr (.inr (.inl ⟨_, _, by rw [boundaryWork_log, frameAtBoundary_log]⟩)))
  case episodePauseClose =>
    rw [next_inj h]
    rcases reachBoundaryIf_cases _ _ s with h1 | ⟨-, h1⟩ <;> rw [h1]
    · exact .inl rfl
    · exact .inr (.inr (.inr (.inl ⟨_, _, by rw [boundaryWork_log, frameAtBoundary_log]⟩)))
  case frameReceived =>
    rw [next_inj h]
    split
    · exact .inl rfl
    · exact .inl (by simp)
  case actRise =>
    rw [next_inj h]
    left
    unfold rise seenRise
    repeat' split
    all_goals rfl
  case actFall =>
    rw [next_inj h]
    left
    split
    · rfl
    · dsimp only
      split <;> rfl
  case ignoredTransaction =>
    rw [next_inj h]
    exact .inl (State.mapPort_log _ _ _)
  case unknownCommand =>
    exact .inl (unknownCommand_part State.log State.mapPort_log (rest := []) h)
  case readResponse =>
    rw [next_inj h]
    exact .inl (readResponse_part State.log State.mapPort_log _ _ _)
  case chipSelectFall =>
    rw [next_inj h]
    exact .inl (State.mapPort_log _ _ _)
  case endOfSync =>
    rw [next_inj h]
    exact .inl rfl
  case setTime =>
    exact .inl (portCommand_part_same State.log State.mapPort_log h fun _ _ _ _ hr => by rw [setTimeRule_frame hr])
  case setCalendarSlots p rest =>
    rcases portCommand_part State.log State.mapPort_log h with h1 | ⟨args, u, st, d, hr, hu, hk, hp⟩
    · exact .inl h1
    · simp only [setCalendarSlotsRule, storeSlots] at hr
      repeat' split at hr
      all_goals first
        | (rw [hu, refuse_complete hr]; exact .inl (State.opened_log _ _))
        | (rw [hu, complete_state hr]; cases p <;> (cases ‹Profile› <;> exact .inr (.inr (.inr (.inl ⟨s.timebase.time, [_], rfl⟩)))))
  case setClass p rest =>
    rcases portCommand_part State.log State.mapPort_log h with h1 | ⟨args, u, st, d, hr, hu, hk, hp⟩
    · exact .inl h1
    · simp only [setClassRule] at hr
      repeat' split at hr
      all_goals first
        | (rw [hu, refuse_complete hr]; exact .inl (State.opened_log _ _))
        | (rw [hu, complete_state hr]; cases p <;> exact .inr (.inr (.inr (.inl ⟨s.timebase.time, [_], rfl⟩))))
  case setDayRules p rest =>
    rcases portCommand_part State.log State.mapPort_log h with h1 | ⟨args, u, st, d, hr, hu, hk, hp⟩
    · exact .inl h1
    · simp only [setDayRulesRule] at hr
      repeat' split at hr
      all_goals first
        | (rw [hu, refuse_complete hr]; exact .inl (State.opened_log _ _))
        | (rw [hu, complete_state hr]; cases p <;> exact .inr (.inr (.inr (.inl ⟨s.timebase.time, [_], rfl⟩))))
  case addRestDay p rest =>
    rcases portCommand_part State.log State.mapPort_log h with h1 | ⟨args, u, st, d, hr, hu, hk, hp⟩
    · exact .inl h1
    · simp only [addRestDayRule] at hr
      repeat' split at hr
      all_goals first
        | (rw [hu, refuse_complete hr]; exact .inl (State.opened_log _ _))
        | (rw [hu, complete_state hr]; cases p <;> exact .inr (.inr (.inr (.inl ⟨s.timebase.time, [_], rfl⟩))))
  case dropRestDay p rest =>
    rcases portCommand_part State.log State.mapPort_log h with h1 | ⟨args, u, st, d, hr, hu, hk, hp⟩
    · exact .inl h1
    · simp only [dropRestDayRule] at hr
      repeat' split at hr
      all_goals first
        | (rw [hu, refuse_complete hr]; exact .inl (State.opened_log _ _))
        | (rw [hu, complete_state hr]; cases p <;> exact .inr (.inr (.inr (.inl ⟨s.timebase.time, [_], rfl⟩))))
  case channelOn =>
    exact .inl (portCommand_part_same State.log State.mapPort_log h fun _ _ _ _ hr => by rw [channelOnRule_frame hr])
  case channelOff =>
    exact .inl (portCommand_part_same State.log State.mapPort_log h fun _ _ _ _ hr => by rw [channelOffRule_frame hr])
  case clearCounters p rest =>
    rcases portCommand_part State.log State.mapPort_log h with h1 | ⟨args, u, st, d, hr, hu, hk, hp⟩
    · exact .inl h1
    · simp only [clearCountersRule] at hr
      repeat' split at hr
      all_goals first
        | (rw [hu, refuse_complete hr]; exact .inl (State.opened_log _ _))
        | (rw [hu, complete_state hr]; cases p <;> exact .inr (.inr (.inr (.inl ⟨s.timebase.time, [_], rfl⟩))))
  case cut =>
    exact .inl (portCommand_part_same State.log State.mapPort_log h fun _ _ _ _ hr => by rw [cutRule_frame hr])
  case setGap p rest =>
    rcases portCommand_part State.log State.mapPort_log h with h1 | ⟨args, u, st, d, hr, hu, hk, hp⟩
    · exact .inl h1
    · simp only [setGapRule] at hr
      repeat' split at hr
      all_goals first
        | (rw [hu, refuse_complete hr]; exact .inl (State.opened_log _ _))
        | (rw [hu, complete_state hr]; cases p <;> exact .inr (.inr (.inr (.inl ⟨s.timebase.time, [_], rfl⟩))))
  case setActivityLines p rest =>
    rcases portCommand_part State.log State.mapPort_log h with h1 | ⟨args, u, st, d, hr, hu, hk, hp⟩
    · exact .inl h1
    · simp only [setActivityLinesRule] at hr
      repeat' split at hr
      all_goals first
        | (rw [hu, refuse_complete hr]; exact .inl (State.opened_log _ _))
        | (rw [hu, complete_state hr]; cases p <;> exact .inr (.inr (.inr (.inl ⟨s.timebase.time, [_], rfl⟩))))
  case setBackground p rest =>
    rcases portCommand_part State.log State.mapPort_log h with h1 | ⟨args, u, st, d, hr, hu, hk, hp⟩
    · exact .inl h1
    · simp only [setBackgroundRule] at hr
      repeat' split at hr
      all_goals first
        | (rw [hu, refuse_complete hr]; exact .inl (State.opened_log _ _))
        | (rw [hu, complete_state hr]; cases p <;> exact .inr (.inr (.inr (.inl ⟨s.timebase.time, [_], rfl⟩))))
  case setEvent p rest =>
    rcases portCommand_part State.log State.mapPort_log h with h1 | ⟨args, u, st, d, hr, hu, hk, hp⟩
    · exact .inl h1
    · simp only [setEventRule] at hr
      repeat' split at hr
      all_goals first
        | (rw [hu, refuse_complete hr]; exact .inl (State.opened_log _ _))
        | (rw [hu, complete_state hr]; cases p <;> exact .inr (.inr (.inr (.inl ⟨s.timebase.time, [_], rfl⟩))))
  case lockRouting p rest =>
    rcases portCommand_part State.log State.mapPort_log h with h1 | ⟨args, u, st, d, hr, hu, hk, hp⟩
    · exact .inl h1
    · simp only [lockRoutingRule] at hr
      repeat' split at hr
      all_goals first
        | (rw [hu, refuse_complete hr]; exact .inl (State.opened_log _ _))
        | (rw [hu, complete_state hr]; cases p <;> exact .inr (.inr (.inr (.inl ⟨s.timebase.time, [_], rfl⟩))))
  case restart =>
    exact .inl (portCommand_part_same State.log State.mapPort_log h fun _ _ _ _ hr => by rw [restartRule_frame hr])
  case fetch =>
    exact .inl (portCommand_part_same State.log State.mapPort_log h fun _ _ _ _ hr => by rw [fetchRule_frame hr])
  case release p rest =>
    rcases portCommand_part State.log State.mapPort_log h with h1 | ⟨args, u, st, d, hr, hu, hk, hp⟩
    · exact .inl h1
    · simp only [releaseRule] at hr
      repeat' split at hr
      all_goals first
        | (rw [hu, refuse_complete hr]; exact .inl (State.opened_log _ _))
        | (rw [hu, complete_state hr]; cases p <;> exact .inr (.inr (.inr (.inr (.inl rfl)))))
  case setWarnFraction p rest =>
    rcases portCommand_part State.log State.mapPort_log h with h1 | ⟨args, u, st, d, hr, hu, hk, hp⟩
    · exact .inl h1
    · simp only [setWarnFractionRule] at hr
      repeat' split at hr
      all_goals first
        | (rw [hu, refuse_complete hr]; exact .inl (State.opened_log _ _))
        | (rw [hu, complete_state hr]; cases p <;> exact .inr (.inr (.inr (.inl ⟨s.timebase.time, [_], rfl⟩))))
  case activityPulse =>
    exact .inl (portCommand_part_same State.log State.mapPort_log h fun _ _ _ _ hr => by rw [activityPulseRule_frame hr])
  case peek p rest =>
    rcases portCommand_part State.log State.mapPort_log h with h1 | ⟨args, u, st, d, hr, hu, hk, hp⟩
    · exact .inl h1
    · simp only [peekRule] at hr
      repeat' split at hr
      all_goals first
        | (rw [hu, refuse_complete hr]; exact .inl (State.opened_log _ _))
        | (rw [hu, complete_state hr]; cases p <;> exact .inr (.inr (.inr (.inr (.inr (.inl rfl))))))
  case advance p rest =>
    rcases portCommand_part State.log State.mapPort_log h with h1 | ⟨args, u, st, d, hr, hu, hk, hp⟩
    · exact .inl h1
    · simp only [advanceRule] at hr
      repeat' split at hr
      all_goals first
        | (rw [hu, refuse_complete hr]; exact .inl (State.opened_log _ _))
        | (rw [hu, complete_state hr]; cases p <;> exact .inr (.inr (.inr (.inr (.inr (.inr ⟨by simpa using ‹¬_›, rfl⟩))))))
  case setRoute p rest =>
    rcases portCommand_part State.log State.mapPort_log h with h1 | ⟨args, u, st, d, hr, hu, hk, hp⟩
    · exact .inl h1
    · simp only [setRouteRule] at hr
      repeat' split at hr
      all_goals first
        | (rw [hu, refuse_complete hr]; exact .inl (State.opened_log _ _))
        | (rw [hu, complete_state hr]; cases p <;> exact .inr (.inr (.inr (.inl ⟨s.timebase.time, [_], rfl⟩))))
  case readEdges =>
    exact .inl (portCommand_part_same State.log State.mapPort_log h fun _ _ _ _ hr => by rw [readEdgesRule_frame hr])
  case readDeviceStatus =>
    exact .inl (portCommand_part_same State.log State.mapPort_log h fun _ _ _ _ hr => by rw [readDeviceStatusRule_frame hr])
  case readChannelStatus =>
    exact .inl (portCommand_part_same State.log State.mapPort_log h fun _ _ _ _ hr => by rw [readChannelStatusRule_frame hr])
  case readConfig =>
    exact .inl (portCommand_part_same State.log State.mapPort_log h fun _ _ _ _ hr => by rw [readConfigRule_frame hr])
  case setEdges =>
    refine .inl (portCommand_part_same State.log State.mapPort_log h fun _ _ _ _ hr => ?_)
    obtain ⟨f, hf⟩ := setEdgesRule_frame hr
    rw [hf, State.mapPort_log]
  case clearEdges =>
    refine .inl (portCommand_part_same State.log State.mapPort_log h fun _ _ _ _ hr => ?_)
    obtain ⟨f, hf⟩ := clearEdgesRule_frame hr
    rw [hf, State.mapPort_log]
  case setAttention =>
    refine .inl (portCommand_part_same State.log State.mapPort_log h fun _ _ _ _ hr => ?_)
    obtain ⟨f, hf⟩ := setAttentionRule_frame hr
    rw [hf, State.mapPort_log]
  case latch =>
    refine .inl (portCommand_part_same State.log State.mapPort_log h fun _ _ _ _ hr => ?_)
    obtain ⟨f, hf⟩ := latchRule_frame hr
    rw [hf, State.mapPort_log]
  case readSnapshot =>
    refine .inl (portCommand_part_same State.log State.mapPort_log h fun _ _ _ _ hr => ?_)
    obtain ⟨f, hf⟩ := readSnapshotRule_frame hr
    rw [hf, State.mapPort_log]

/-- All that a step can do to the interlock matrix (R144, R146, R148). -/
theorem exec_matrix {i : Instr} {s t : State} (h : exec i s = .next t) :
    t.matrix = s.matrix ∨ (i = .powerOn ∧ t.matrix = Matrix.reset) ∨
      (∃ p rest line route, i = .setRoute p rest ∧ (p = .authority ∨ s.matrix.locked = false) ∧
        t.matrix = { s.matrix with routes := s.matrix.routes.set line route }) ∨
      (∃ rest, i = .lockRouting .authority rest ∧ t.matrix = { s.matrix with locked := true }) := by
  cases i
  case powerOn =>
    rw [next_inj h]
    exact .inr (.inl ⟨rfl, rfl⟩)
  case sliceClockStart =>
    rw [next_inj h]
    exact .inl rfl
  case nrstLow =>
    rw [next_inj h]
    split
    · exact .inl rfl
    · exact .inl rfl
  case nrstRelease =>
    rw [next_inj h]
    split
    · exact .inl rfl
    · exact .inl rfl
  case boundary =>
    rw [next_inj h]
    rcases reachBoundary_cases _ s with ⟨-, h1⟩ | ⟨-, h1⟩ <;> rw [h1]
    · exact .inl rfl
    · exact .inl (by simp)
  case dayRollover =>
    rw [next_inj h]
    rcases reachBoundaryIf_cases _ _ s with h1 | ⟨-, h1⟩ <;> rw [h1]
    · exact .inl rfl
    · exact .inl (by simp)
  case dayWrap =>
    rw [next_inj h]
    rcases reachBoundaryIf_cases _ _ s with h1 | ⟨-, h1⟩ <;> rw [h1]
    · exact .inl rfl
    · exact .inl (by simp)
  case linkAcquired =>
    rw [next_inj h]
    rcases reachBoundaryIf_cases _ _ s with h1 | ⟨-, h1⟩ <;> rw [h1]
    · exact .inl rfl
    · exact .inl (by simp)
  case headLoss =>
    rw [next_inj h]
    rcases reachBoundaryIf_cases _ _ s with h1 | ⟨-, h1⟩ <;> rw [h1]
    · exact .inl rfl
    · exact .inl (by simp)
  case eventHoldClose =>
    rw [next_inj h]
    rcases reachBoundaryIf_cases _ _ s with h1 | ⟨-, h1⟩ <;> rw [h1]
    · exact .inl rfl
    · exact .inl (by simp)
  case eventLongClose =>
    rw [next_inj h]
    rcases reachBoundaryIf_cases _ _ s with h1 | ⟨-, h1⟩ <;> rw [h1]
    · exact .inl rfl
    · exact .inl (by simp)
  case episodePauseClose =>
    rw [next_inj h]
    rcases reachBoundaryIf_cases _ _ s with h1 | ⟨-, h1⟩ <;> rw [h1]
    · exact .inl rfl
    · exact .inl (by simp)
  case frameReceived =>
    rw [next_inj h]
    split
    · exact .inl rfl
    · exact .inl (by simp)
  case actRise =>
    rw [next_inj h]
    left
    unfold rise seenRise
    repeat' split
    all_goals rfl
  case actFall =>
    rw [next_inj h]
    left
    split
    · rfl
    · dsimp only
      split <;> rfl
  case ignoredTransaction =>
    rw [next_inj h]
    exact .inl (State.mapPort_matrix _ _ _)
  case unknownCommand =>
    exact .inl (unknownCommand_part State.matrix State.mapPort_matrix (rest := []) h)
  case readResponse =>
    rw [next_inj h]
    exact .inl (readResponse_part State.matrix State.mapPort_matrix _ _ _)
  case chipSelectFall =>
    rw [next_inj h]
    exact .inl (State.mapPort_matrix _ _ _)
  case endOfSync =>
    rw [next_inj h]
    exact .inl rfl
  case setTime =>
    exact .inl (portCommand_part_same State.matrix State.mapPort_matrix h fun _ _ _ _ hr => by rw [setTimeRule_frame hr])
  case setCalendarSlots =>
    exact .inl (portCommand_part_same State.matrix State.mapPort_matrix h fun _ _ _ _ hr => by rw [setCalendarSlotsRule_frame hr])
  case setClass =>
    exact .inl (portCommand_part_same State.matrix State.mapPort_matrix h fun _ _ _ _ hr => by rw [setClassRule_frame hr])
  case setDayRules =>
    exact .inl (portCommand_part_same State.matrix State.mapPort_matrix h fun _ _ _ _ hr => by rw [setDayRulesRule_frame hr])
  case addRestDay =>
    exact .inl (portCommand_part_same State.matrix State.mapPort_matrix h fun _ _ _ _ hr => by rw [addRestDayRule_frame hr])
  case dropRestDay =>
    exact .inl (portCommand_part_same State.matrix State.mapPort_matrix h fun _ _ _ _ hr => by rw [dropRestDayRule_frame hr])
  case channelOn =>
    exact .inl (portCommand_part_same State.matrix State.mapPort_matrix h fun _ _ _ _ hr => by rw [channelOnRule_frame hr])
  case channelOff =>
    exact .inl (portCommand_part_same State.matrix State.mapPort_matrix h fun _ _ _ _ hr => by rw [channelOffRule_frame hr])
  case clearCounters =>
    exact .inl (portCommand_part_same State.matrix State.mapPort_matrix h fun _ _ _ _ hr => by rw [clearCountersRule_frame hr])
  case cut =>
    exact .inl (portCommand_part_same State.matrix State.mapPort_matrix h fun _ _ _ _ hr => by rw [cutRule_frame hr])
  case setGap =>
    exact .inl (portCommand_part_same State.matrix State.mapPort_matrix h fun _ _ _ _ hr => by rw [setGapRule_frame hr])
  case setActivityLines =>
    exact .inl (portCommand_part_same State.matrix State.mapPort_matrix h fun _ _ _ _ hr => by rw [setActivityLinesRule_frame hr])
  case setBackground =>
    exact .inl (portCommand_part_same State.matrix State.mapPort_matrix h fun _ _ _ _ hr => by rw [setBackgroundRule_frame hr])
  case setEvent =>
    exact .inl (portCommand_part_same State.matrix State.mapPort_matrix h fun _ _ _ _ hr => by rw [setEventRule_frame hr])
  case lockRouting p rest =>
    rcases portCommand_part State.matrix State.mapPort_matrix h with h1 | ⟨args, u, st, d, hr, hu, hk, hp⟩
    · exact .inl h1
    · simp only [lockRoutingRule] at hr
      repeat' split at hr
      all_goals first
        | (rw [hu, refuse_complete hr]; exact .inl (State.opened_matrix _ _))
        | (rw [hu, complete_state hr]; cases p <;> first | exact absurd hp (by decide) | exact .inr (.inr (.inr ⟨_, rfl, rfl⟩)))
  case restart =>
    exact .inl (portCommand_part_same State.matrix State.mapPort_matrix h fun _ _ _ _ hr => by rw [restartRule_frame hr])
  case fetch =>
    exact .inl (portCommand_part_same State.matrix State.mapPort_matrix h fun _ _ _ _ hr => by rw [fetchRule_frame hr])
  case release =>
    exact .inl (portCommand_part_same State.matrix State.mapPort_matrix h fun _ _ _ _ hr => by rw [releaseRule_frame hr])
  case setWarnFraction =>
    exact .inl (portCommand_part_same State.matrix State.mapPort_matrix h fun _ _ _ _ hr => by rw [setWarnFractionRule_frame hr])
  case activityPulse =>
    exact .inl (portCommand_part_same State.matrix State.mapPort_matrix h fun _ _ _ _ hr => by rw [activityPulseRule_frame hr])
  case peek =>
    exact .inl (portCommand_part_same State.matrix State.mapPort_matrix h fun _ _ _ _ hr => by rw [peekRule_frame hr])
  case advance =>
    exact .inl (portCommand_part_same State.matrix State.mapPort_matrix h fun _ _ _ _ hr => by rw [advanceRule_frame hr])
  case setRoute p rest =>
    rcases portCommand_part State.matrix State.mapPort_matrix h with h1 | ⟨args, u, st, d, hr, hu, hk, hp⟩
    · exact .inl h1
    · simp only [setRouteRule] at hr
      repeat' split at hr
      all_goals first
        | (rw [hu, refuse_complete hr]; exact .inl (State.opened_matrix _ _))
        | (rw [hu, complete_state hr]; cases p <;> exact .inr (.inr (.inl ⟨_, _, _, _, rfl, by simp_all, rfl⟩)))
  case readEdges =>
    exact .inl (portCommand_part_same State.matrix State.mapPort_matrix h fun _ _ _ _ hr => by rw [readEdgesRule_frame hr])
  case readDeviceStatus =>
    exact .inl (portCommand_part_same State.matrix State.mapPort_matrix h fun _ _ _ _ hr => by rw [readDeviceStatusRule_frame hr])
  case readChannelStatus =>
    exact .inl (portCommand_part_same State.matrix State.mapPort_matrix h fun _ _ _ _ hr => by rw [readChannelStatusRule_frame hr])
  case readConfig =>
    exact .inl (portCommand_part_same State.matrix State.mapPort_matrix h fun _ _ _ _ hr => by rw [readConfigRule_frame hr])
  case setEdges =>
    refine .inl (portCommand_part_same State.matrix State.mapPort_matrix h fun _ _ _ _ hr => ?_)
    obtain ⟨f, hf⟩ := setEdgesRule_frame hr
    rw [hf, State.mapPort_matrix]
  case clearEdges =>
    refine .inl (portCommand_part_same State.matrix State.mapPort_matrix h fun _ _ _ _ hr => ?_)
    obtain ⟨f, hf⟩ := clearEdgesRule_frame hr
    rw [hf, State.mapPort_matrix]
  case setAttention =>
    refine .inl (portCommand_part_same State.matrix State.mapPort_matrix h fun _ _ _ _ hr => ?_)
    obtain ⟨f, hf⟩ := setAttentionRule_frame hr
    rw [hf, State.mapPort_matrix]
  case latch =>
    refine .inl (portCommand_part_same State.matrix State.mapPort_matrix h fun _ _ _ _ hr => ?_)
    obtain ⟨f, hf⟩ := latchRule_frame hr
    rw [hf, State.mapPort_matrix]
  case readSnapshot =>
    refine .inl (portCommand_part_same State.matrix State.mapPort_matrix h fun _ _ _ _ hr => ?_)
    obtain ⟨f, hf⟩ := readSnapshotRule_frame hr
    rw [hf, State.mapPort_matrix]

/-- All that a step can do to the timebase and the calendar. -/
theorem exec_timebase {i : Instr} {s t : State} (h : exec i s = .next t) :
    t.timebase = s.timebase ∨ t.timebase = Timebase.reset ∨
      t.timebase = { s.timebase with slice := none, lastSlice := none } ∨
      (∃ timed, t.timebase = s.timebase.atBoundary timed) ∨
      (∃ profile v, t.timebase = s.timebase.withSlots profile v) ∨
      (∃ (n : ClassNo) (k : ClassParams), k.InRange ∧
        t.timebase = { s.timebase with classes := s.timebase.classes.set n.val k n.isLt }) ∨
      (∃ mask fallback enable, t.timebase =
        { s.timebase with restWeekdays := mask, defaultClass := fallback, calendarEnable := enable }) ∨
      (∃ day, s.timebase.time.day ≤ day ∧ day ∉ s.timebase.restDays ∧ s.timebase.restDays.length < 16 ∧
        t.timebase = { s.timebase with restDays := insertDay day s.timebase.restDays }) ∨
      (∃ day : BitVec 16, t.timebase = { s.timebase with restDays := s.timebase.restDays.filter fun d => d != day }) := by
  cases i
  case powerOn =>
    rw [next_inj h]
    exact .inr (.inl rfl)
  case sliceClockStart =>
    rw [next_inj h]
    exact .inl rfl
  case nrstLow =>
    rw [next_inj h]
    split
    · exact .inl rfl
    · exact .inr (.inr (.inl rfl))
  case nrstRelease =>
    rw [next_inj h]
    split
    · exact .inr (.inl rfl)
    · exact .inl rfl
  case boundary =>
    rw [next_inj h]
    rcases reachBoundary_cases _ s with ⟨-, h1⟩ | ⟨-, h1⟩ <;> rw [h1]
    · exact .inl rfl
    · exact .inr (.inr (.inr (.inl ⟨_, by rw [boundaryWork_timebase, frameAtBoundary_timebase]⟩)))
  case dayRollover =>
    rw [next_inj h]
    rcases reachBoundaryIf_cases _ _ s with h1 | ⟨-, h1⟩ <;> rw [h1]
    · exact .inl rfl
    · exact .inr (.inr (.inr (.inl ⟨_, by rw [boundaryWork_timebase, frameAtBoundary_timebase]⟩)))
  case dayWrap =>
    rw [next_inj h]
    rcases reachBoundaryIf_cases _ _ s with h1 | ⟨-, h1⟩ <;> rw [h1]
    · exact .inl rfl
    · exact .inr (.inr (.inr (.inl ⟨_, by rw [boundaryWork_timebase, frameAtBoundary_timebase]⟩)))
  case linkAcquired =>
    rw [next_inj h]
    rcases reachBoundaryIf_cases _ _ s with h1 | ⟨-, h1⟩ <;> rw [h1]
    · exact .inl rfl
    · exact .inr (.inr (.inr (.inl ⟨_, by rw [boundaryWork_timebase, frameAtBoundary_timebase]⟩)))
  case headLoss =>
    rw [next_inj h]
    rcases reachBoundaryIf_cases _ _ s with h1 | ⟨-, h1⟩ <;> rw [h1]
    · exact .inl rfl
    · exact .inr (.inr (.inr (.inl ⟨_, by rw [boundaryWork_timebase, frameAtBoundary_timebase]⟩)))
  case eventHoldClose =>
    rw [next_inj h]
    rcases reachBoundaryIf_cases _ _ s with h1 | ⟨-, h1⟩ <;> rw [h1]
    · exact .inl rfl
    · exact .inr (.inr (.inr (.inl ⟨_, by rw [boundaryWork_timebase, frameAtBoundary_timebase]⟩)))
  case eventLongClose =>
    rw [next_inj h]
    rcases reachBoundaryIf_cases _ _ s with h1 | ⟨-, h1⟩ <;> rw [h1]
    · exact .inl rfl
    · exact .inr (.inr (.inr (.inl ⟨_, by rw [boundaryWork_timebase, frameAtBoundary_timebase]⟩)))
  case episodePauseClose =>
    rw [next_inj h]
    rcases reachBoundaryIf_cases _ _ s with h1 | ⟨-, h1⟩ <;> rw [h1]
    · exact .inl rfl
    · exact .inr (.inr (.inr (.inl ⟨_, by rw [boundaryWork_timebase, frameAtBoundary_timebase]⟩)))
  case frameReceived =>
    rw [next_inj h]
    split
    · exact .inl rfl
    · exact .inl (by simp)
  case actRise =>
    rw [next_inj h]
    left
    unfold rise seenRise
    repeat' split
    all_goals rfl
  case actFall =>
    rw [next_inj h]
    left
    split
    · rfl
    · dsimp only
      split <;> rfl
  case ignoredTransaction =>
    rw [next_inj h]
    exact .inl (State.mapPort_timebase _ _ _)
  case unknownCommand =>
    exact .inl (unknownCommand_part State.timebase State.mapPort_timebase (rest := []) h)
  case readResponse =>
    rw [next_inj h]
    exact .inl (readResponse_part State.timebase State.mapPort_timebase _ _ _)
  case chipSelectFall =>
    rw [next_inj h]
    exact .inl (State.mapPort_timebase _ _ _)
  case endOfSync =>
    rw [next_inj h]
    exact .inl rfl
  case setTime =>
    exact .inl (portCommand_part_same State.timebase State.mapPort_timebase h fun _ _ _ _ hr => by rw [setTimeRule_frame hr])
  case setCalendarSlots p rest =>
    rcases portCommand_part State.timebase State.mapPort_timebase h with h1 | ⟨args, u, st, d, hr, hu, hk, hp⟩
    · exact .inl h1
    · simp only [setCalendarSlotsRule, storeSlots] at hr
      repeat' split at hr
      all_goals first
        | (rw [hu, refuse_complete hr]; exact .inl (State.opened_timebase _ _))
        | (rw [hu, complete_state hr]; cases p <;> exact .inr (.inr (.inr (.inr (.inl (⟨_, _, rfl⟩))))))
  case setClass p rest =>
    rcases portCommand_part State.timebase State.mapPort_timebase h with h1 | ⟨args, u, st, d, hr, hu, hk, hp⟩
    · exact .inl h1
    · simp only [setClassRule] at hr
      repeat' split at hr
      all_goals first
        | (rw [hu, refuse_complete hr]; exact .inl (State.opened_timebase _ _))
        | (rw [hu, complete_state hr]; cases p <;> exact .inr (.inr (.inr (.inr (.inr (.inl (⟨_, _, storedClass_inRange _ _ _ _ _, rfl⟩)))))))
  case setDayRules p rest =>
    rcases portCommand_part State.timebase State.mapPort_timebase h with h1 | ⟨args, u, st, d, hr, hu, hk, hp⟩
    · exact .inl h1
    · simp only [setDayRulesRule] at hr
      repeat' split at hr
      all_goals first
        | (rw [hu, refuse_complete hr]; exact .inl (State.opened_timebase _ _))
        | (rw [hu, complete_state hr]; cases p <;> exact .inr (.inr (.inr (.inr (.inr (.inr (.inl (⟨_, _, _, rfl⟩))))))))
  case addRestDay p rest =>
    rcases portCommand_part State.timebase State.mapPort_timebase h with h1 | ⟨args, u, st, d, hr, hu, hk, hp⟩
    · exact .inl h1
    · simp only [addRestDayRule] at hr
      repeat' split at hr
      all_goals first
        | (rw [hu, refuse_complete hr]; exact .inl (State.opened_timebase _ _))
        | (rw [hu, complete_state hr]; cases p <;> (rename_i h1 h2 h3 h4; exact .inr (.inr (.inr (.inr (.inr (.inr (.inr (.inl (⟨_, by simpa using h2, by simpa using h3, by simpa [Config.restDayPlaces] using h4, rfl⟩))))))))))
  case dropRestDay p rest =>
    rcases portCommand_part State.timebase State.mapPort_timebase h with h1 | ⟨args, u, st, d, hr, hu, hk, hp⟩
    · exact .inl h1
    · simp only [dropRestDayRule] at hr
      repeat' split at hr
      all_goals first
        | (rw [hu, refuse_complete hr]; exact .inl (State.opened_timebase _ _))
        | (rw [hu, complete_state hr]; cases p <;> exact .inr (.inr (.inr (.inr (.inr (.inr (.inr (.inr (⟨_, rfl⟩)))))))))
  case channelOn =>
    exact .inl (portCommand_part_same State.timebase State.mapPort_timebase h fun _ _ _ _ hr => by rw [channelOnRule_frame hr])
  case channelOff =>
    exact .inl (portCommand_part_same State.timebase State.mapPort_timebase h fun _ _ _ _ hr => by rw [channelOffRule_frame hr])
  case clearCounters =>
    exact .inl (portCommand_part_same State.timebase State.mapPort_timebase h fun _ _ _ _ hr => by rw [clearCountersRule_frame hr])
  case cut =>
    exact .inl (portCommand_part_same State.timebase State.mapPort_timebase h fun _ _ _ _ hr => by rw [cutRule_frame hr])
  case setGap =>
    exact .inl (portCommand_part_same State.timebase State.mapPort_timebase h fun _ _ _ _ hr => by rw [setGapRule_frame hr])
  case setActivityLines =>
    exact .inl (portCommand_part_same State.timebase State.mapPort_timebase h fun _ _ _ _ hr => by rw [setActivityLinesRule_frame hr])
  case setBackground =>
    exact .inl (portCommand_part_same State.timebase State.mapPort_timebase h fun _ _ _ _ hr => by rw [setBackgroundRule_frame hr])
  case setEvent =>
    exact .inl (portCommand_part_same State.timebase State.mapPort_timebase h fun _ _ _ _ hr => by rw [setEventRule_frame hr])
  case lockRouting =>
    exact .inl (portCommand_part_same State.timebase State.mapPort_timebase h fun _ _ _ _ hr => by rw [lockRoutingRule_frame hr])
  case restart =>
    exact .inl (portCommand_part_same State.timebase State.mapPort_timebase h fun _ _ _ _ hr => by rw [restartRule_frame hr])
  case fetch =>
    exact .inl (portCommand_part_same State.timebase State.mapPort_timebase h fun _ _ _ _ hr => by rw [fetchRule_frame hr])
  case release =>
    exact .inl (portCommand_part_same State.timebase State.mapPort_timebase h fun _ _ _ _ hr => by rw [releaseRule_frame hr])
  case setWarnFraction =>
    exact .inl (portCommand_part_same State.timebase State.mapPort_timebase h fun _ _ _ _ hr => by rw [setWarnFractionRule_frame hr])
  case activityPulse =>
    exact .inl (portCommand_part_same State.timebase State.mapPort_timebase h fun _ _ _ _ hr => by rw [activityPulseRule_frame hr])
  case peek =>
    exact .inl (portCommand_part_same State.timebase State.mapPort_timebase h fun _ _ _ _ hr => by rw [peekRule_frame hr])
  case advance =>
    exact .inl (portCommand_part_same State.timebase State.mapPort_timebase h fun _ _ _ _ hr => by rw [advanceRule_frame hr])
  case setRoute =>
    exact .inl (portCommand_part_same State.timebase State.mapPort_timebase h fun _ _ _ _ hr => by rw [setRouteRule_frame hr])
  case readEdges =>
    exact .inl (portCommand_part_same State.timebase State.mapPort_timebase h fun _ _ _ _ hr => by rw [readEdgesRule_frame hr])
  case readDeviceStatus =>
    exact .inl (portCommand_part_same State.timebase State.mapPort_timebase h fun _ _ _ _ hr => by rw [readDeviceStatusRule_frame hr])
  case readChannelStatus =>
    exact .inl (portCommand_part_same State.timebase State.mapPort_timebase h fun _ _ _ _ hr => by rw [readChannelStatusRule_frame hr])
  case readConfig =>
    exact .inl (portCommand_part_same State.timebase State.mapPort_timebase h fun _ _ _ _ hr => by rw [readConfigRule_frame hr])
  case setEdges =>
    refine .inl (portCommand_part_same State.timebase State.mapPort_timebase h fun _ _ _ _ hr => ?_)
    obtain ⟨f, hf⟩ := setEdgesRule_frame hr
    rw [hf, State.mapPort_timebase]
  case clearEdges =>
    refine .inl (portCommand_part_same State.timebase State.mapPort_timebase h fun _ _ _ _ hr => ?_)
    obtain ⟨f, hf⟩ := clearEdgesRule_frame hr
    rw [hf, State.mapPort_timebase]
  case setAttention =>
    refine .inl (portCommand_part_same State.timebase State.mapPort_timebase h fun _ _ _ _ hr => ?_)
    obtain ⟨f, hf⟩ := setAttentionRule_frame hr
    rw [hf, State.mapPort_timebase]
  case latch =>
    refine .inl (portCommand_part_same State.timebase State.mapPort_timebase h fun _ _ _ _ hr => ?_)
    obtain ⟨f, hf⟩ := latchRule_frame hr
    rw [hf, State.mapPort_timebase]
  case readSnapshot =>
    refine .inl (portCommand_part_same State.timebase State.mapPort_timebase h fun _ _ _ _ hr => ?_)
    obtain ⟨f, hf⟩ := readSnapshotRule_frame hr
    rw [hf, State.mapPort_timebase]

/-- All that a step can do to the device settings (R92, R109, R129, R136). -/
theorem exec_settings {i : Instr} {s t : State} (h : exec i s = .next t) :
    t.settings = s.settings ∨ t.settings = Settings.reset ∨
      (∃ conceal loss : Option Nat, t.settings =
        { s.settings with
          concealMax := storedConcealMax s.settings.concealMax (storedLossCount s.settings.lossCount loss) conceal
          lossCount := storedLossCount s.settings.lossCount loss }) ∨
      (∃ shift min hold, (4 ≤ shift ∧ shift ≤ 12) ∧ (8 ≤ min ∧ min ≤ 65535) ∧ hold ≤ 65535 ∧
        t.settings = { s.settings with bgShift := shift, bgMin := min, quietHold := hold }) ∨
      (∃ hold cap, (1 ≤ hold ∧ hold ≤ 255) ∧ (1 ≤ cap ∧ cap ≤ 255) ∧
        t.settings = { s.settings with eventHold := hold, eventCap := cap }) ∨
      (∃ v, v ≤ 255 ∧ t.settings = { s.settings with warnFraction := v }) := by
  cases i
  case powerOn =>
    rw [next_inj h]
    exact .inr (.inl rfl)
  case sliceClockStart =>
    rw [next_inj h]
    exact .inl rfl
  case nrstLow =>
    rw [next_inj h]
    split
    · exact .inl rfl
    · exact .inl rfl
  case nrstRelease =>
    rw [next_inj h]
    split
    · exact .inr (.inl rfl)
    · exact .inl rfl
  case boundary =>
    rw [next_inj h]
    rcases reachBoundary_cases _ s with ⟨-, h1⟩ | ⟨-, h1⟩ <;> rw [h1]
    · exact .inl rfl
    · exact .inl (by simp)
  case dayRollover =>
    rw [next_inj h]
    rcases reachBoundaryIf_cases _ _ s with h1 | ⟨-, h1⟩ <;> rw [h1]
    · exact .inl rfl
    · exact .inl (by simp)
  case dayWrap =>
    rw [next_inj h]
    rcases reachBoundaryIf_cases _ _ s with h1 | ⟨-, h1⟩ <;> rw [h1]
    · exact .inl rfl
    · exact .inl (by simp)
  case linkAcquired =>
    rw [next_inj h]
    rcases reachBoundaryIf_cases _ _ s with h1 | ⟨-, h1⟩ <;> rw [h1]
    · exact .inl rfl
    · exact .inl (by simp)
  case headLoss =>
    rw [next_inj h]
    rcases reachBoundaryIf_cases _ _ s with h1 | ⟨-, h1⟩ <;> rw [h1]
    · exact .inl rfl
    · exact .inl (by simp)
  case eventHoldClose =>
    rw [next_inj h]
    rcases reachBoundaryIf_cases _ _ s with h1 | ⟨-, h1⟩ <;> rw [h1]
    · exact .inl rfl
    · exact .inl (by simp)
  case eventLongClose =>
    rw [next_inj h]
    rcases reachBoundaryIf_cases _ _ s with h1 | ⟨-, h1⟩ <;> rw [h1]
    · exact .inl rfl
    · exact .inl (by simp)
  case episodePauseClose =>
    rw [next_inj h]
    rcases reachBoundaryIf_cases _ _ s with h1 | ⟨-, h1⟩ <;> rw [h1]
    · exact .inl rfl
    · exact .inl (by simp)
  case frameReceived =>
    rw [next_inj h]
    split
    · exact .inl rfl
    · exact .inl (by simp)
  case actRise =>
    rw [next_inj h]
    left
    unfold rise seenRise
    repeat' split
    all_goals rfl
  case actFall =>
    rw [next_inj h]
    left
    split
    · rfl
    · dsimp only
      split <;> rfl
  case ignoredTransaction =>
    rw [next_inj h]
    exact .inl (State.mapPort_settings _ _ _)
  case unknownCommand =>
    exact .inl (unknownCommand_part State.settings State.mapPort_settings (rest := []) h)
  case readResponse =>
    rw [next_inj h]
    exact .inl (readResponse_part State.settings State.mapPort_settings _ _ _)
  case chipSelectFall =>
    rw [next_inj h]
    exact .inl (State.mapPort_settings _ _ _)
  case endOfSync =>
    rw [next_inj h]
    exact .inl rfl
  case setTime =>
    exact .inl (portCommand_part_same State.settings State.mapPort_settings h fun _ _ _ _ hr => by rw [setTimeRule_frame hr])
  case setCalendarSlots =>
    exact .inl (portCommand_part_same State.settings State.mapPort_settings h fun _ _ _ _ hr => by rw [setCalendarSlotsRule_frame hr])
  case setClass =>
    exact .inl (portCommand_part_same State.settings State.mapPort_settings h fun _ _ _ _ hr => by rw [setClassRule_frame hr])
  case setDayRules =>
    exact .inl (portCommand_part_same State.settings State.mapPort_settings h fun _ _ _ _ hr => by rw [setDayRulesRule_frame hr])
  case addRestDay =>
    exact .inl (portCommand_part_same State.settings State.mapPort_settings h fun _ _ _ _ hr => by rw [addRestDayRule_frame hr])
  case dropRestDay =>
    exact .inl (portCommand_part_same State.settings State.mapPort_settings h fun _ _ _ _ hr => by rw [dropRestDayRule_frame hr])
  case channelOn =>
    exact .inl (portCommand_part_same State.settings State.mapPort_settings h fun _ _ _ _ hr => by rw [channelOnRule_frame hr])
  case channelOff =>
    exact .inl (portCommand_part_same State.settings State.mapPort_settings h fun _ _ _ _ hr => by rw [channelOffRule_frame hr])
  case clearCounters =>
    exact .inl (portCommand_part_same State.settings State.mapPort_settings h fun _ _ _ _ hr => by rw [clearCountersRule_frame hr])
  case cut =>
    exact .inl (portCommand_part_same State.settings State.mapPort_settings h fun _ _ _ _ hr => by rw [cutRule_frame hr])
  case setGap p rest =>
    rcases portCommand_part State.settings State.mapPort_settings h with h1 | ⟨args, u, st, d, hr, hu, hk, hp⟩
    · exact .inl h1
    · simp only [setGapRule] at hr
      repeat' split at hr
      all_goals first
        | (rw [hu, refuse_complete hr]; exact .inl (State.opened_settings _ _))
        | (rw [hu, complete_state hr]; cases p <;> exact .inr (.inr (.inl ⟨gapArg (arg2 args 0), gapArg (arg2 args 2), rfl⟩)))
  case setActivityLines =>
    exact .inl (portCommand_part_same State.settings State.mapPort_settings h fun _ _ _ _ hr => by rw [setActivityLinesRule_frame hr])
  case setBackground p rest =>
    rcases portCommand_part State.settings State.mapPort_settings h with h1 | ⟨args, u, st, d, hr, hu, hk, hp⟩
    · exact .inl h1
    · simp only [setBackgroundRule] at hr
      repeat' split at hr
      all_goals first
        | (rw [hu, refuse_complete hr]; exact .inl (State.opened_settings _ _))
        | (rw [hu, complete_state hr]; cases p <;> exact .inr (.inr (.inr (.inl
            ⟨_, _, _, clamp_bounds (by decide) _, clamp_bounds (by decide) _, Nat.le_of_lt_succ (arg2_lt _ _), rfl⟩))))
  case setEvent p rest =>
    rcases portCommand_part State.settings State.mapPort_settings h with h1 | ⟨args, u, st, d, hr, hu, hk, hp⟩
    · exact .inl h1
    · simp only [setEventRule] at hr
      repeat' split at hr
      all_goals first
        | (rw [hu, refuse_complete hr]; exact .inl (State.opened_settings _ _))
        | (rw [hu, complete_state hr]; cases p <;> exact .inr (.inr (.inr (.inr (.inl
            ⟨_, _, clamp_bounds (by decide) _, clamp_bounds (by decide) _, rfl⟩)))))
  case lockRouting =>
    exact .inl (portCommand_part_same State.settings State.mapPort_settings h fun _ _ _ _ hr => by rw [lockRoutingRule_frame hr])
  case restart =>
    exact .inl (portCommand_part_same State.settings State.mapPort_settings h fun _ _ _ _ hr => by rw [restartRule_frame hr])
  case fetch =>
    exact .inl (portCommand_part_same State.settings State.mapPort_settings h fun _ _ _ _ hr => by rw [fetchRule_frame hr])
  case release =>
    exact .inl (portCommand_part_same State.settings State.mapPort_settings h fun _ _ _ _ hr => by rw [releaseRule_frame hr])
  case setWarnFraction p rest =>
    rcases portCommand_part State.settings State.mapPort_settings h with h1 | ⟨args, u, st, d, hr, hu, hk, hp⟩
    · exact .inl h1
    · simp only [setWarnFractionRule] at hr
      repeat' split at hr
      all_goals first
        | (rw [hu, refuse_complete hr]; exact .inl (State.opened_settings _ _))
        | (rw [hu, complete_state hr]; cases p <;> exact .inr (.inr (.inr (.inr (.inr ⟨_, Nat.le_of_lt_succ (arg1_lt _ _), rfl⟩)))))
  case activityPulse =>
    exact .inl (portCommand_part_same State.settings State.mapPort_settings h fun _ _ _ _ hr => by rw [activityPulseRule_frame hr])
  case peek =>
    exact .inl (portCommand_part_same State.settings State.mapPort_settings h fun _ _ _ _ hr => by rw [peekRule_frame hr])
  case advance =>
    exact .inl (portCommand_part_same State.settings State.mapPort_settings h fun _ _ _ _ hr => by rw [advanceRule_frame hr])
  case setRoute =>
    exact .inl (portCommand_part_same State.settings State.mapPort_settings h fun _ _ _ _ hr => by rw [setRouteRule_frame hr])
  case readEdges =>
    exact .inl (portCommand_part_same State.settings State.mapPort_settings h fun _ _ _ _ hr => by rw [readEdgesRule_frame hr])
  case readDeviceStatus =>
    exact .inl (portCommand_part_same State.settings State.mapPort_settings h fun _ _ _ _ hr => by rw [readDeviceStatusRule_frame hr])
  case readChannelStatus =>
    exact .inl (portCommand_part_same State.settings State.mapPort_settings h fun _ _ _ _ hr => by rw [readChannelStatusRule_frame hr])
  case readConfig =>
    exact .inl (portCommand_part_same State.settings State.mapPort_settings h fun _ _ _ _ hr => by rw [readConfigRule_frame hr])
  case setEdges =>
    refine .inl (portCommand_part_same State.settings State.mapPort_settings h fun _ _ _ _ hr => ?_)
    obtain ⟨f, hf⟩ := setEdgesRule_frame hr
    rw [hf, State.mapPort_settings]
  case clearEdges =>
    refine .inl (portCommand_part_same State.settings State.mapPort_settings h fun _ _ _ _ hr => ?_)
    obtain ⟨f, hf⟩ := clearEdgesRule_frame hr
    rw [hf, State.mapPort_settings]
  case setAttention =>
    refine .inl (portCommand_part_same State.settings State.mapPort_settings h fun _ _ _ _ hr => ?_)
    obtain ⟨f, hf⟩ := setAttentionRule_frame hr
    rw [hf, State.mapPort_settings]
  case latch =>
    refine .inl (portCommand_part_same State.settings State.mapPort_settings h fun _ _ _ _ hr => ?_)
    obtain ⟨f, hf⟩ := latchRule_frame hr
    rw [hf, State.mapPort_settings]
  case readSnapshot =>
    refine .inl (portCommand_part_same State.settings State.mapPort_settings h fun _ _ _ _ hr => ?_)
    obtain ⟨f, hf⟩ := readSnapshotRule_frame hr
    rw [hf, State.mapPort_settings]

/-- All that a step can do to the activity monitor. -/
theorem exec_activity {i : Instr} {s t : State} (h : exec i s = .next t) :
    t.activity = s.activity ∨ (∃ level, t.activity = Activity.resetAt level) ∨
      t.activity = { s.activity with episode := none, unseen := 0 } ∨
      (t.activity = (s.activity.atBoundary s.timebase.slice s.pendingTimed s.settings.quietHold).1) ∨
      (∃ mask, t.activity = { s.activity with enable := mask }) ∨
      (t.activity = { s.activity with pulse := true }) ∨
      (∃ level unseen highSeen, t.activity =
        { s.activity with level := level, unseen := unseen, highSeen := highSeen }) := by
  cases i
  case powerOn =>
    rw [next_inj h]
    exact .inr (.inl ⟨_, rfl⟩)
  case sliceClockStart =>
    rw [next_inj h]
    exact .inl rfl
  case nrstLow =>
    rw [next_inj h]
    split
    · exact .inl rfl
    · exact .inr (.inr (.inl rfl))
  case nrstRelease =>
    rw [next_inj h]
    split
    · exact .inr (.inl ⟨_, rfl⟩)
    · exact .inl rfl
  case boundary =>
    rw [next_inj h]
    rcases reachBoundary_cases _ s with ⟨-, h1⟩ | ⟨-, h1⟩ <;> rw [h1]
    · exact .inl rfl
    · exact .inr (.inr (.inr (.inl (by simp))))
  case dayRollover =>
    rw [next_inj h]
    rcases reachBoundaryIf_cases _ _ s with h1 | ⟨-, h1⟩ <;> rw [h1]
    · exact .inl rfl
    · exact .inr (.inr (.inr (.inl (by simp))))
  case dayWrap =>
    rw [next_inj h]
    rcases reachBoundaryIf_cases _ _ s with h1 | ⟨-, h1⟩ <;> rw [h1]
    · exact .inl rfl
    · exact .inr (.inr (.inr (.inl (by simp))))
  case linkAcquired =>
    rw [next_inj h]
    rcases reachBoundaryIf_cases _ _ s with h1 | ⟨-, h1⟩ <;> rw [h1]
    · exact .inl rfl
    · exact .inr (.inr (.inr (.inl (by simp))))
  case headLoss =>
    rw [next_inj h]
    rcases reachBoundaryIf_cases _ _ s with h1 | ⟨-, h1⟩ <;> rw [h1]
    · exact .inl rfl
    · exact .inr (.inr (.inr (.inl (by simp))))
  case eventHoldClose =>
    rw [next_inj h]
    rcases reachBoundaryIf_cases _ _ s with h1 | ⟨-, h1⟩ <;> rw [h1]
    · exact .inl rfl
    · exact .inr (.inr (.inr (.inl (by simp))))
  case eventLongClose =>
    rw [next_inj h]
    rcases reachBoundaryIf_cases _ _ s with h1 | ⟨-, h1⟩ <;> rw [h1]
    · exact .inl rfl
    · exact .inr (.inr (.inr (.inl (by simp))))
  case episodePauseClose =>
    rw [next_inj h]
    rcases reachBoundaryIf_cases _ _ s with h1 | ⟨-, h1⟩ <;> rw [h1]
    · exact .inl rfl
    · exact .inr (.inr (.inr (.inl (by simp))))
  case frameReceived =>
    rw [next_inj h]
    split
    · exact .inl rfl
    · exact .inl (by simp)
  case actRise =>
    rw [next_inj h]
    simp only [rise, seenRise, Activity.mark, State.takeRise]
    repeat' split
    all_goals first
      | exact .inl rfl
      | exact .inr (.inr (.inr (.inr (.inr (.inr ⟨_, _, _, rfl⟩)))))
  case actFall =>
    rw [next_inj h]
    split
    · exact .inl rfl
    · dsimp only
      split <;> exact .inr (.inr (.inr (.inr (.inr (.inr ⟨_, _, _, rfl⟩)))))
  case ignoredTransaction =>
    rw [next_inj h]
    exact .inl (State.mapPort_activity _ _ _)
  case unknownCommand =>
    exact .inl (unknownCommand_part State.activity State.mapPort_activity (rest := []) h)
  case readResponse =>
    rw [next_inj h]
    exact .inl (readResponse_part State.activity State.mapPort_activity _ _ _)
  case chipSelectFall =>
    rw [next_inj h]
    exact .inl (State.mapPort_activity _ _ _)
  case endOfSync =>
    rw [next_inj h]
    exact .inl rfl
  case setTime =>
    exact .inl (portCommand_part_same State.activity State.mapPort_activity h fun _ _ _ _ hr => by rw [setTimeRule_frame hr])
  case setCalendarSlots =>
    exact .inl (portCommand_part_same State.activity State.mapPort_activity h fun _ _ _ _ hr => by rw [setCalendarSlotsRule_frame hr])
  case setClass =>
    exact .inl (portCommand_part_same State.activity State.mapPort_activity h fun _ _ _ _ hr => by rw [setClassRule_frame hr])
  case setDayRules =>
    exact .inl (portCommand_part_same State.activity State.mapPort_activity h fun _ _ _ _ hr => by rw [setDayRulesRule_frame hr])
  case addRestDay =>
    exact .inl (portCommand_part_same State.activity State.mapPort_activity h fun _ _ _ _ hr => by rw [addRestDayRule_frame hr])
  case dropRestDay =>
    exact .inl (portCommand_part_same State.activity State.mapPort_activity h fun _ _ _ _ hr => by rw [dropRestDayRule_frame hr])
  case channelOn =>
    exact .inl (portCommand_part_same State.activity State.mapPort_activity h fun _ _ _ _ hr => by rw [channelOnRule_frame hr])
  case channelOff =>
    exact .inl (portCommand_part_same State.activity State.mapPort_activity h fun _ _ _ _ hr => by rw [channelOffRule_frame hr])
  case clearCounters =>
    exact .inl (portCommand_part_same State.activity State.mapPort_activity h fun _ _ _ _ hr => by rw [clearCountersRule_frame hr])
  case cut =>
    exact .inl (portCommand_part_same State.activity State.mapPort_activity h fun _ _ _ _ hr => by rw [cutRule_frame hr])
  case setGap =>
    exact .inl (portCommand_part_same State.activity State.mapPort_activity h fun _ _ _ _ hr => by rw [setGapRule_frame hr])
  case setActivityLines p rest =>
    rcases portCommand_part State.activity State.mapPort_activity h with h1 | ⟨args, u, st, d, hr, hu, hk, hp⟩
    · exact .inl h1
    · simp only [setActivityLinesRule] at hr
      repeat' split at hr
      all_goals first
        | (rw [hu, refuse_complete hr]; exact .inl (State.opened_activity _ _))
        | (rw [hu, complete_state hr]; cases p <;> exact .inr (.inr (.inr (.inr (.inl ⟨_, rfl⟩)))))
  case setBackground =>
    exact .inl (portCommand_part_same State.activity State.mapPort_activity h fun _ _ _ _ hr => by rw [setBackgroundRule_frame hr])
  case setEvent =>
    exact .inl (portCommand_part_same State.activity State.mapPort_activity h fun _ _ _ _ hr => by rw [setEventRule_frame hr])
  case lockRouting =>
    exact .inl (portCommand_part_same State.activity State.mapPort_activity h fun _ _ _ _ hr => by rw [lockRoutingRule_frame hr])
  case restart =>
    exact .inl (portCommand_part_same State.activity State.mapPort_activity h fun _ _ _ _ hr => by rw [restartRule_frame hr])
  case fetch =>
    exact .inl (portCommand_part_same State.activity State.mapPort_activity h fun _ _ _ _ hr => by rw [fetchRule_frame hr])
  case release =>
    exact .inl (portCommand_part_same State.activity State.mapPort_activity h fun _ _ _ _ hr => by rw [releaseRule_frame hr])
  case setWarnFraction =>
    exact .inl (portCommand_part_same State.activity State.mapPort_activity h fun _ _ _ _ hr => by rw [setWarnFractionRule_frame hr])
  case activityPulse p rest =>
    rcases portCommand_part State.activity State.mapPort_activity h with h1 | ⟨args, u, st, d, hr, hu, hk, hp⟩
    · exact .inl h1
    · simp only [activityPulseRule] at hr
      repeat' split at hr
      all_goals first
        | (rw [hu, refuse_complete hr]; exact .inl (State.opened_activity _ _))
        | (rw [hu, complete_state hr]; cases p <;> exact .inr (.inr (.inr (.inr (.inr (.inl rfl))))))
  case peek =>
    exact .inl (portCommand_part_same State.activity State.mapPort_activity h fun _ _ _ _ hr => by rw [peekRule_frame hr])
  case advance =>
    exact .inl (portCommand_part_same State.activity State.mapPort_activity h fun _ _ _ _ hr => by rw [advanceRule_frame hr])
  case setRoute =>
    exact .inl (portCommand_part_same State.activity State.mapPort_activity h fun _ _ _ _ hr => by rw [setRouteRule_frame hr])
  case readEdges =>
    exact .inl (portCommand_part_same State.activity State.mapPort_activity h fun _ _ _ _ hr => by rw [readEdgesRule_frame hr])
  case readDeviceStatus =>
    exact .inl (portCommand_part_same State.activity State.mapPort_activity h fun _ _ _ _ hr => by rw [readDeviceStatusRule_frame hr])
  case readChannelStatus =>
    exact .inl (portCommand_part_same State.activity State.mapPort_activity h fun _ _ _ _ hr => by rw [readChannelStatusRule_frame hr])
  case readConfig =>
    exact .inl (portCommand_part_same State.activity State.mapPort_activity h fun _ _ _ _ hr => by rw [readConfigRule_frame hr])
  case setEdges =>
    refine .inl (portCommand_part_same State.activity State.mapPort_activity h fun _ _ _ _ hr => ?_)
    obtain ⟨f, hf⟩ := setEdgesRule_frame hr
    rw [hf, State.mapPort_activity]
  case clearEdges =>
    refine .inl (portCommand_part_same State.activity State.mapPort_activity h fun _ _ _ _ hr => ?_)
    obtain ⟨f, hf⟩ := clearEdgesRule_frame hr
    rw [hf, State.mapPort_activity]
  case setAttention =>
    refine .inl (portCommand_part_same State.activity State.mapPort_activity h fun _ _ _ _ hr => ?_)
    obtain ⟨f, hf⟩ := setAttentionRule_frame hr
    rw [hf, State.mapPort_activity]
  case latch =>
    refine .inl (portCommand_part_same State.activity State.mapPort_activity h fun _ _ _ _ hr => ?_)
    obtain ⟨f, hf⟩ := latchRule_frame hr
    rw [hf, State.mapPort_activity]
  case readSnapshot =>
    refine .inl (portCommand_part_same State.activity State.mapPort_activity h fun _ _ _ _ hr => ?_)
    obtain ⟨f, hf⟩ := readSnapshotRule_frame hr
    rw [hf, State.mapPort_activity]

/-- All that a step can do to the channels. -/
theorem exec_channels {i : Instr} {s t : State} (h : exec i s = .next t) :
    t.channels = s.channels ∨ t.channels = Oct.fill ChannelState.reset ∨
      t.channels = s.channels.map ChannelState.abandoned ∨
      (∃ heard, t.channels = (endFrame heard s).channels) ∨
      (∃ heard, s.clockRuns = true ∧ t.channels = (boundaryWork (frameAtBoundary heard s)).channels) ∨
      t.channels = s.channels.map ChannelState.countsCleared ∨
      (∃ v, t.channels = s.channels.map (ChannelState.rewarn · v)) := by
  cases i
  case powerOn =>
    rw [next_inj h]
    exact .inr (.inl rfl)
  case sliceClockStart =>
    rw [next_inj h]
    exact .inl rfl
  case nrstLow =>
    rw [next_inj h]
    split
    · exact .inl rfl
    · exact .inr (.inr (.inl rfl))
  case nrstRelease =>
    rw [next_inj h]
    split
    · exact .inr (.inl rfl)
    · exact .inl rfl
  case boundary =>
    rw [next_inj h]
    rcases reachBoundary_cases _ s with ⟨-, h1⟩ | ⟨hc, h1⟩ <;> rw [h1]
    · exact .inl rfl
    · exact .inr (.inr (.inr (.inr (.inl ⟨_, hc, rfl⟩))))
  case dayRollover =>
    rw [next_inj h]
    rcases reachBoundaryIf_cases _ _ s with h1 | ⟨hc, h1⟩ <;> rw [h1]
    · exact .inl rfl
    · exact .inr (.inr (.inr (.inr (.inl ⟨_, hc, rfl⟩))))
  case dayWrap =>
    rw [next_inj h]
    rcases reachBoundaryIf_cases _ _ s with h1 | ⟨hc, h1⟩ <;> rw [h1]
    · exact .inl rfl
    · exact .inr (.inr (.inr (.inr (.inl ⟨_, hc, rfl⟩))))
  case linkAcquired =>
    rw [next_inj h]
    rcases reachBoundaryIf_cases _ _ s with h1 | ⟨hc, h1⟩ <;> rw [h1]
    · exact .inl rfl
    · exact .inr (.inr (.inr (.inr (.inl ⟨_, hc, rfl⟩))))
  case headLoss =>
    rw [next_inj h]
    rcases reachBoundaryIf_cases _ _ s with h1 | ⟨hc, h1⟩ <;> rw [h1]
    · exact .inl rfl
    · exact .inr (.inr (.inr (.inr (.inl ⟨_, hc, rfl⟩))))
  case eventHoldClose =>
    rw [next_inj h]
    rcases reachBoundaryIf_cases _ _ s with h1 | ⟨hc, h1⟩ <;> rw [h1]
    · exact .inl rfl
    · exact .inr (.inr (.inr (.inr (.inl ⟨_, hc, rfl⟩))))
  case eventLongClose =>
    rw [next_inj h]
    rcases reachBoundaryIf_cases _ _ s with h1 | ⟨hc, h1⟩ <;> rw [h1]
    · exact .inl rfl
    · exact .inr (.inr (.inr (.inr (.inl ⟨_, hc, rfl⟩))))
  case episodePauseClose =>
    rw [next_inj h]
    rcases reachBoundaryIf_cases _ _ s with h1 | ⟨hc, h1⟩ <;> rw [h1]
    · exact .inl rfl
    · exact .inr (.inr (.inr (.inr (.inl ⟨_, hc, rfl⟩))))
  case frameReceived =>
    rw [next_inj h]
    split
    · exact .inl rfl
    · exact .inr (.inr (.inr (.inl ⟨_, rfl⟩)))
  case actRise =>
    rw [next_inj h]
    left
    unfold rise seenRise
    repeat' split
    all_goals rfl
  case actFall =>
    rw [next_inj h]
    left
    split
    · rfl
    · dsimp only
      split <;> rfl
  case ignoredTransaction =>
    rw [next_inj h]
    exact .inl (State.mapPort_channels _ _ _)
  case unknownCommand =>
    exact .inl (unknownCommand_part State.channels State.mapPort_channels (rest := []) h)
  case readResponse =>
    rw [next_inj h]
    exact .inl (readResponse_part State.channels State.mapPort_channels _ _ _)
  case chipSelectFall =>
    rw [next_inj h]
    exact .inl (State.mapPort_channels _ _ _)
  case endOfSync =>
    rw [next_inj h]
    exact .inl rfl
  case setTime =>
    exact .inl (portCommand_part_same State.channels State.mapPort_channels h fun _ _ _ _ hr => by rw [setTimeRule_frame hr])
  case setCalendarSlots =>
    exact .inl (portCommand_part_same State.channels State.mapPort_channels h fun _ _ _ _ hr => by rw [setCalendarSlotsRule_frame hr])
  case setClass =>
    exact .inl (portCommand_part_same State.channels State.mapPort_channels h fun _ _ _ _ hr => by rw [setClassRule_frame hr])
  case setDayRules =>
    exact .inl (portCommand_part_same State.channels State.mapPort_channels h fun _ _ _ _ hr => by rw [setDayRulesRule_frame hr])
  case addRestDay =>
    exact .inl (portCommand_part_same State.channels State.mapPort_channels h fun _ _ _ _ hr => by rw [addRestDayRule_frame hr])
  case dropRestDay =>
    exact .inl (portCommand_part_same State.channels State.mapPort_channels h fun _ _ _ _ hr => by rw [dropRestDayRule_frame hr])
  case channelOn =>
    exact .inl (portCommand_part_same State.channels State.mapPort_channels h fun _ _ _ _ hr => by rw [channelOnRule_frame hr])
  case channelOff =>
    exact .inl (portCommand_part_same State.channels State.mapPort_channels h fun _ _ _ _ hr => by rw [channelOffRule_frame hr])
  case clearCounters p rest =>
    rcases portCommand_part State.channels State.mapPort_channels h with h1 | ⟨args, u, st, d, hr, hu, hk, hp⟩
    · exact .inl h1
    · simp only [clearCountersRule] at hr
      repeat' split at hr
      all_goals first
        | (rw [hu, refuse_complete hr]; exact .inl (State.opened_channels _ _))
        | (rw [hu, complete_state hr]; cases p <;> exact .inr (.inr (.inr (.inr (.inr (.inl rfl))))))
  case cut =>
    exact .inl (portCommand_part_same State.channels State.mapPort_channels h fun _ _ _ _ hr => by rw [cutRule_frame hr])
  case setGap =>
    exact .inl (portCommand_part_same State.channels State.mapPort_channels h fun _ _ _ _ hr => by rw [setGapRule_frame hr])
  case setActivityLines =>
    exact .inl (portCommand_part_same State.channels State.mapPort_channels h fun _ _ _ _ hr => by rw [setActivityLinesRule_frame hr])
  case setBackground =>
    exact .inl (portCommand_part_same State.channels State.mapPort_channels h fun _ _ _ _ hr => by rw [setBackgroundRule_frame hr])
  case setEvent =>
    exact .inl (portCommand_part_same State.channels State.mapPort_channels h fun _ _ _ _ hr => by rw [setEventRule_frame hr])
  case lockRouting =>
    exact .inl (portCommand_part_same State.channels State.mapPort_channels h fun _ _ _ _ hr => by rw [lockRoutingRule_frame hr])
  case restart =>
    exact .inl (portCommand_part_same State.channels State.mapPort_channels h fun _ _ _ _ hr => by rw [restartRule_frame hr])
  case fetch =>
    exact .inl (portCommand_part_same State.channels State.mapPort_channels h fun _ _ _ _ hr => by rw [fetchRule_frame hr])
  case release =>
    exact .inl (portCommand_part_same State.channels State.mapPort_channels h fun _ _ _ _ hr => by rw [releaseRule_frame hr])
  case setWarnFraction p rest =>
    rcases portCommand_part State.channels State.mapPort_channels h with h1 | ⟨args, u, st, d, hr, hu, hk, hp⟩
    · exact .inl h1
    · simp only [setWarnFractionRule] at hr
      repeat' split at hr
      all_goals first
        | (rw [hu, refuse_complete hr]; exact .inl (State.opened_channels _ _))
        | (rw [hu, complete_state hr]; cases p <;> exact .inr (.inr (.inr (.inr (.inr (.inr ⟨_, rfl⟩))))))
  case activityPulse =>
    exact .inl (portCommand_part_same State.channels State.mapPort_channels h fun _ _ _ _ hr => by rw [activityPulseRule_frame hr])
  case peek =>
    exact .inl (portCommand_part_same State.channels State.mapPort_channels h fun _ _ _ _ hr => by rw [peekRule_frame hr])
  case advance =>
    exact .inl (portCommand_part_same State.channels State.mapPort_channels h fun _ _ _ _ hr => by rw [advanceRule_frame hr])
  case setRoute =>
    exact .inl (portCommand_part_same State.channels State.mapPort_channels h fun _ _ _ _ hr => by rw [setRouteRule_frame hr])
  case readEdges =>
    exact .inl (portCommand_part_same State.channels State.mapPort_channels h fun _ _ _ _ hr => by rw [readEdgesRule_frame hr])
  case readDeviceStatus =>
    exact .inl (portCommand_part_same State.channels State.mapPort_channels h fun _ _ _ _ hr => by rw [readDeviceStatusRule_frame hr])
  case readChannelStatus =>
    exact .inl (portCommand_part_same State.channels State.mapPort_channels h fun _ _ _ _ hr => by rw [readChannelStatusRule_frame hr])
  case readConfig =>
    exact .inl (portCommand_part_same State.channels State.mapPort_channels h fun _ _ _ _ hr => by rw [readConfigRule_frame hr])
  case setEdges =>
    refine .inl (portCommand_part_same State.channels State.mapPort_channels h fun _ _ _ _ hr => ?_)
    obtain ⟨f, hf⟩ := setEdgesRule_frame hr
    rw [hf, State.mapPort_channels]
  case clearEdges =>
    refine .inl (portCommand_part_same State.channels State.mapPort_channels h fun _ _ _ _ hr => ?_)
    obtain ⟨f, hf⟩ := clearEdgesRule_frame hr
    rw [hf, State.mapPort_channels]
  case setAttention =>
    refine .inl (portCommand_part_same State.channels State.mapPort_channels h fun _ _ _ _ hr => ?_)
    obtain ⟨f, hf⟩ := setAttentionRule_frame hr
    rw [hf, State.mapPort_channels]
  case latch =>
    refine .inl (portCommand_part_same State.channels State.mapPort_channels h fun _ _ _ _ hr => ?_)
    obtain ⟨f, hf⟩ := latchRule_frame hr
    rw [hf, State.mapPort_channels]
  case readSnapshot =>
    refine .inl (portCommand_part_same State.channels State.mapPort_channels h fun _ _ _ _ hr => ?_)
    obtain ⟨f, hf⟩ := readSnapshotRule_frame hr
    rw [hf, State.mapPort_channels]

end Sys2Proof.Machine
end

