-- ==== Sys2Proof/Laws/Timebase.lean ====
section
/-! SUPPORT. Laws of the timebase at a boundary. -/

namespace Sys2Proof.Machine

/-- The profile chosen for a day is REST exactly on a listed day or a rest weekday (R8). -/
theorem Timebase.chosenProfile_eq_rest (tb : Timebase) (day : BitVec 16) :
    tb.chosenProfile day = .rest ↔
      day ∈ tb.restDays ∨ tb.restWeekdays.getLsbD ((day.toNat + tb.weekdayOffset.val) % 7) = true := by
  unfold Timebase.chosenProfile Timebase.weekday
  split <;> simp_all

theorem mem_pruneRestDays {d day : BitVec 16} {l : List (BitVec 16)} :
    d ∈ pruneRestDays day l ↔ d ∈ l ∧ day ≤ d := by
  simp [pruneRestDays]

/-- The weekday after a time step is the one given (R19). -/
theorem offsetFor_weekday (weekday : Fin 7) (day : BitVec 16) :
    (day.toNat + (offsetFor weekday day).val) % 7 = weekday.val := by
  have := weekday.isLt
  simp only [offsetFor]
  omega

/-- What the read of the slot class leaves and what it changes (R6). -/
theorem Timebase.slotStart_cases (tb : Timebase) :
    (tb.time.sod.val % 7200 = 0 ∧
        tb.slotStart = { tb with slotClass := (tb.slots tb.profile).get (slotOf tb.time) }) ∨
      (tb.time.sod.val % 7200 ≠ 0 ∧ tb.slotStart = tb) := by
  unfold Timebase.slotStart Timebase.readSlotClass
  split
  · exact .inl ⟨‹_›, rfl⟩
  · exact .inr ⟨‹_›, rfl⟩

/-- The boundary does not change the calendar's settings. -/
theorem Timebase.toNextSlice_frame (tb : Timebase) (timed : Option Timed) :
    tb.toNextSlice timed =
      { tb with
        time := (tb.toNextSlice timed).time
        timeValid := (tb.toNextSlice timed).timeValid
        weekdayOffset := (tb.toNextSlice timed).weekdayOffset
        profile := (tb.toNextSlice timed).profile
        slotClass := (tb.toNextSlice timed).slotClass
        restDays := (tb.toNextSlice timed).restDays } := by
  unfold Timebase.toNextSlice Timebase.slotStart Timebase.advance Timebase.rollover
  dsimp only
  repeat' split
  all_goals rfl

/-- Without a time step the site time advances, or the first slice starts where it is held. -/
theorem Timebase.toNextSlice_advance (tb : Timebase) {timed : Option Timed}
    (h : ∀ time weekday, timed ≠ some (.setTime time weekday)) :
    tb.toNextSlice timed = (if tb.slice.isSome then tb.advance else tb).slotStart := by
  unfold Timebase.toNextSlice
  split
  · exact absurd rfl (h _ _)
  · rfl

end Sys2Proof.Machine
end

