-- ==== Sys2Proof/Tests/Slice0.lean ====
section
/-! SUPPORT. The model's own tests: ill-formed terms that the check refuses, transactions written out from the List of
Command Codes, the spec's worked examples, and for every statement with hypotheses a state and operands that meet
them. -/

namespace Sys2Proof.Tests

open Sys2Proof.Machine

/-! ### Helpers -/

/-- The state that a command leaves (the state it found, where it has no next state). -/
def after (i : Instr) (s : State) : State :=
  match exec i s with
  | .next t => t
  | .fault _ => s
  | .refused _ => s

/-- The state after one command after the other. -/
def afterAll (l : List Instr) (s : State) : State := l.foldl (fun s i => after i s) s

/-- A port of the state put into a command state. -/
def withCommand (p : Port) (c : CommandState) (s : State) : State := s.mapPort p fun q => { q with command := c }

/-- The state with one transaction in progress on a port. -/
def withTransaction (p : Port) (t : Transaction) (s : State) : State :=
  s.mapPort p fun q => { q with transaction := some t }

/-- The tag of slice `n` of day 1201, of class 3. -/
def tag (n : Fin 691200) : Tag := ⟨⟨1201, n⟩, .working, 3, true, true⟩

/-- A channel in LIVE that holds a report of level 750 and peak 900. -/
def live : ChannelState := { ChannelState.reset with link := .live, held := some ⟨750, 900, 0⟩ }

/-- The part in slice 8, with slice 7 to be accounted, a LEVEL result on channel 0, MISSING on channel 1 and CAL on
channel 2; channel 3 is in SEARCH one report before LIVE, channel 4 in LIVE one MISSING before LOST. -/
def running : State :=
  { State.reset with
    crystalRunning := true
    timebase :=
      { Timebase.reset with time := ⟨1201, 8⟩, timeValid := true, slice := some (tag 8), lastSlice := some ⟨tag 7, false⟩ }
    headLink := { HeadLink.reset with syncTag := some 7 }
    channels :=
      { State.reset.channels with
        n0 := live
        n1 := { live with held := none }
        n2 := { live with held := some ⟨0, 0, 4⟩ }
        n3 := { live with link := .search, acquire := 2 }
        n4 := { live with held := none, miss := 39 } } }

/-- The context of an account of slice 7. -/
def context : SliceContext := running.sliceContext (tag 7)

/-- An interval of class 3 with 100 slices, every one measured at 652. -/
def opened : Interval :=
  { openInterval context with elapsed := 100, measured := 100, sumTot := 33113000000, lmaxSoFar := some 652 }

/-- An event opened 5 slices ago that is held for `hold` more. -/
def impulse (hold age : Nat) : Event :=
  ⟨⟨1201, 2⟩, ⟨1201, 2⟩, age, 1, hold, 100000000000, 900, 1000, none, 900, 1200, 3, ⟨1201, 0⟩, false⟩

/-- A channel with a gap run of three slices in its interval, as in the example of chapter 5.2. -/
def gapped : ChannelState :=
  { live with
    background := ⟨some 100000000, 3000⟩
    prev := some .missing
    gap := some ⟨⟨1201, 4⟩, ⟨1201, 6⟩, 3, some 331130000, ⟨1201, 0⟩, true, false⟩
    interval := some { opened with elapsed := 103, missing := 3, sumBg := 10000000000, nbg := 100 } }

/-- The running state with channel 0 changed. -/
def on0 (f : ChannelState → ChannelState) : State := running.mapChannel 0 f

/-! ### Well-formed terms and transactions -/

theorem test_unknown_of_known_code_is_ill_formed : (Instr.unknownCommand .site 0x42 [0]).wellFormed = false := by decide

theorem test_unknown_of_code_zero_is_ill_formed : (Instr.unknownCommand .authority 0x00 []).wellFormed = false := by decide

theorem test_unknown_of_unknown_code_is_well_formed : (Instr.unknownCommand .site 0x6A []).wellFormed = true := by decide

/-- Transactions written out from R197 and R198. -/
theorem test_transactions_decode :
    decodeTransaction .authority [0x20, 6, 0x04, 0xB1, 0x00, 0xF4, 0xB0, 0] =
        .setTime .authority [6, 0x04, 0xB1, 0x00, 0xF4, 0xB0, 0] ∧
      decodeTransaction .authority [0x2D, 1, 0x02] = .cut .authority [1, 0x02] ∧
      decodeTransaction .authority [0x31, 4, 0, 0, 1, 0x91] = .release .authority [4, 0, 0, 1, 0x91] ∧
      decodeTransaction .authority [0x2A, 4, 0, 4, 0, 2] = .setEvent .authority [4, 0, 4, 0, 2] ∧
      decodeTransaction .site [0x40, 1, 32] = .setWarnFraction .site [1, 32] ∧
      decodeTransaction .site [0x60, 3, 0, 18, 0] = .setRoute .site [3, 0, 18, 0] ∧
      decodeTransaction .site [0x61, 2, 1, 0] = .setEdges .site [2, 1, 0] ∧
      decodeTransaction .site [0x66, 1, 0] = .readSnapshot .site [1, 0] ∧
      decodeTransaction .site [0, 0, 0, 0] = .readResponse .site [0, 0, 0] ∧
      decodeTransaction .site [0x6A, 0] = .unknownCommand .site 0x6A [0] ∧
      decodeTransaction .site [] = .ignoredTransaction .site := by decide

theorem test_table_words_spell_nothing : decodeTableWord 8 0x20 = none := by decide

/-! ### Worked examples of the spec -/

/-- R196: the CRC over the digits 1 to 9. -/
theorem test_crc_of_digits : crc [0x31, 0x32, 0x33, 0x34, 0x35, 0x36, 0x37, 0x38, 0x39] = 0x29B1 := by
  decide +kernel

/-- R42 and R43: the sample energies and levels. -/
theorem test_scale :
    [energy 200, energy 700, energy 1400] = [10000, 1000000000, 10000000000000000] ∧
      [0, 9999, 10000, 19952, 19953, 1583757618, 5500000000, 10000000000000000].map lconv =
        [200, 200, 200, 229, 230, 719, 774, 1400] := by decide

/-- R43: the largest result of the conversion; R50: the largest exposure level. -/
theorem test_scale_tops : lconv (2 ^ 80 - 1) = 2208 ∧ exposureLevel (65535 * 10 ^ 16) = 1791 := by decide

/-- 6.5, the example: the third account of the example (the fourth is misprinted: log entry 10). -/
theorem test_background_step : backgroundStep (some 100000000) (energy 700) 4 = 156250000 := by decide

/-- 4.6, the example: its verdict, and its variant with Nbg 1079. -/
theorem test_assessment :
    let iv : Interval :=
      { opened with
        limit := 750
        elapsed := 2400
        measured := 2100
        concealed := 60
        missing := 180
        cal := 60
        nbg := 1500
        sumTot := 11880000000000
        sumBg := 2377350000000 }
    assess iv = ⟨.exceeded, some 774, some 720, some 759, false, false, false⟩ ∧
      assess { iv with nbg := 1079 } = ⟨.exceeded, some 774, none, some 774, false, true, false⟩ := by decide

/-- 5.2, the example: the last account of the concealed run. -/
theorem test_concealed_run :
    (account context 4 gapped (.level 688 800 false)).ch.interval.map
        (fun iv => ([iv.elapsed, iv.measured, iv.missing, iv.concealed, iv.sumTot, iv.sumBg, iv.nbg], iv.lmaxSoFar)) =
      some ([104, 101, 0, 3, 35506145000, 10400000000, 104], some 688) := by decide

/-- 7.5, the example: slice 505 and the exposure level. -/
theorem test_event_retrigger :
    Event.retrigger
        ⟨⟨1201, 501⟩, ⟨1201, 502⟩, 4, 2, 2, 221586000000, 920, 1210, some ⟨10000000000, 800, 1000⟩, 900, 1200, 3,
          ⟨1201, 0⟩, false⟩
        ⟨1201, 505⟩ 4 950 1190 =
      ⟨⟨1201, 501⟩, ⟨1201, 505⟩, 5, 5, 4, 547816000000, 950, 1210, none, 900, 1200, 3, ⟨1201, 0⟩, false⟩ ∧
    exposureLevel 547816000000 = 883 := by decide

/-- 8.1, the example: four of its accounts. -/
theorem test_allowance :
    [(1791900000000, 64), (1801800000000, 64), (1980000000000, 32), (2405700000000, 32)].map
        (fun x => (allowanceSlices 2400 700 x.1 0, allowanceState 2400 700 x.1 0 x.2)) =
      [(608, .clear), (598, .warning), (420, .clear), (0, .exhausted)] := by decide

/-- 2.2, the example: an arrival of each kind in the reply window. -/
theorem test_reply_window :
    let s : State :=
      { State.reset with
        headLink := { HeadLink.reset with syncTag := some 176 }
        channels :=
          { State.reset.channels with
            n0 := { live with held := none }
            n1 := { live with held := none }
            n2 := { live with held := none } } }
    let t := afterAll
      [.frameReceived (reportFrame 1 176 652 800 0), .frameReceived (reportFrame 2 176 652 800 0).tail,
        .frameReceived (reportFrame 9 176 652 800 0), .frameReceived (reportFrame 4 176 652 800 0),
        .frameReceived (reportFrame 3 175 652 800 0), .frameReceived (reportFrame 1 176 655 800 0),
        .frameReceived (reportFrame 3 176 590 800 0)] s
    (t.headLink.crc, t.headLink.stray, (t.channel 2).late, (t.channel 0).dup) = (1, 1, 1, 1) ∧
      (t.channel 0).held = some ⟨652, 800, 0⟩ ∧ (t.channel 1).held = none ∧ (t.channel 2).held = some ⟨590, 800, 0⟩ ∧
      t.channel 3 = ChannelState.reset := by decide +kernel

/-- 9.3, the example: the batch from its third record on, at a log that holds 255. -/
theorem test_full_log :
    let time : Time := ⟨1201, 62640⟩
    let config : Offer := ⟨none, time, .config .authority (.restart 0)⟩
    let closed (cause : Cause) : Offer := intervalOffer 0 opened cause
    let episode : Offer := ⟨none, time, .prohibited ⟨time, time, 1, 1, 1, 0, .timeStep⟩⟩
    let log : Log := { Log.reset with records := List.replicate 255 ⟨0, config⟩, next := 1256 }
    let after := log.takeAll time [closed .length, closed .timeStep, closed .timeStep, episode, config]
    after.openLoss = some ⟨1256, ⟨5, 3, 0, 0, 1, 1, time, time⟩⟩ ∧ after.next = 1257 := by decide +kernel

/-- 10.4, after the example: a CUT that the authority port holds pending, with a collision. -/
theorem test_collision :
    let s := afterAll [.cut .authority [1, 1], .fetch .authority [0]] running
    s.authority.collided = true ∧ s.stateByte .authority = 1 ∧
      (after (.boundary []) s).authority.command = .done ⟨.ok, true, [1, 1]⟩ := by decide +kernel

/-! ### Witnesses: a state and operands that meet a statement's hypotheses, for each clause -/

theorem witness_StepRunsTheFrontCommand : State.reset.pending = [] := by decide

theorem witness_EveryWellFormedCommandRuns :
    (Instr.fetch .authority [0]).wellFormed = true ∧ (Instr.unknownCommand .site 0x1F []).wellFormed = true ∧
      (Instr.unknownCommand .site 0x20 []).wellFormed = false ∧
      (Instr.unknownCommand .site 0x69 []).wellFormed = false := by decide

theorem witness_TransactionsReadBack :
    (Instr.peek .site [0]).wellFormed = true ∧
      transactionBytes (.peek .site [0]) = some (.site, [0x42, 0]) := by decide

theorem witness_IgnoredTransactionsChangeNothing :
    transactionBytes (.ignoredTransaction .site) = some (.site, []) ∧
      transactionBytes (.peek .site [0]) = some (.site, [0x42, 0]) ∧ (after .nrstLow running).nrstLow = true ∧
      (withTransaction .site ⟨0, true⟩ running).site.transaction = some ⟨0, true⟩ := by decide

theorem witness_BusyPortDiscardsEveryCommand :
    let s := withCommand .authority (.busy .restart) State.reset
    (Instr.unknownCommand .authority 0xFF []).wellFormed = true ∧
      transactionBytes (.unknownCommand .authority 0xFF []) = some (.authority, [0xFF]) ∧
      transactionBytes (.fetch .authority [0]) = some (.authority, [0x30, 0]) ∧ s.ignores .authority = false ∧
      (s.port .authority).command = .busy .restart := by decide

theorem witness_FrameChecksStandInOrder :
    State.reset.takes .site = true ∧ State.reset.takes .authority = true ∧
      namesCommand 0x1F = false ∧ namesCommand 0x6A = false ∧
      (namesCommand 0x42 = true ∧ frameFits [] = false ∧ frameFits [1] = false ∧
        frameFits (251 :: List.replicate 251 0) = false) ∧
      (frameFits [0] = true ∧ frameFits (250 :: List.replicate 250 0) = true ∧ permittedTo .authority 0x42 = false ∧
        permittedTo .site 0x30 = false) ∧
      (permittedTo .site 0x42 = true ∧ acceptsLength 0x42 1 = false) ∧
      (permittedTo .authority 0x21 = true ∧ acceptsLength 0x21 2 = false) := by decide +kernel

theorem witness_ReadResponseReturnsTheHeldResponse :
    State.reset.ignores .site = false ∧
      ((withCommand .site (.done ⟨.ok, true, [1]⟩) State.reset).port .site).command = .done ⟨.ok, true, [1]⟩ ∧
      ((withCommand .authority (.busy .restart) State.reset).port .authority).command = .busy .restart ∧
      (State.reset.port .site).command = .idle := by decide

theorem witness_ChipSelectFallFixesTheStateByte :
    (State.reset.port .site).transaction = none ∧ (after .nrstLow State.reset).nrstLow = true ∧
      ((after (.chipSelectFall .site) State.reset).port .site).transaction = some ⟨0x00, false⟩ := by decide

theorem witness_AttentionFollowsTheMask :
    State.reset.takes .site = true ∧ State.reset.takes .authority = true ∧ (63 : Byte).toNat < 64 ∧
      64 ≤ (64 : Byte).toNat ∧ State.reset.nrstLow = false := by decide

theorem witness_PortsDoNotReachEachOther :
    transactionBytes (.peek .site [0]) = some (.site, [0x42, 0]) ∧
      (∃ t, exec (.peek .site [0]) State.reset = .next t) ∧ ∃ t, exec (.chipSelectFall .site) State.reset = .next t :=
  ⟨by decide, ⟨_, rfl⟩, ⟨_, rfl⟩⟩

theorem witness_PortStatesStayLegal :
    State.reset.PortsOk ∧ State.reset.site.command.Fits ∧ State.reset.authority.command.Fits ∧
      ∃ t, step { State.reset with pending := [.boundary []] } = .next t :=
  ⟨⟨by intro t; simp [State.reset, PortState.resetWith], rfl, by simp [State.reset, PortState.resetWith]⟩, trivial,
    trivial, ⟨_, rfl⟩⟩

theorem witness_TimedCommandsWaitForTheBoundary :
    running.takes .authority = true ∧ (691200 < 16777216 ∧ 6 < 256 ∧ 691200 ≤ 691200) ∧ (7 < 256 ∧ 7 ≤ 7) ∧
      (0x80 : Byte) ≠ 0 ∧ (running.channel 7).link = .off ∧ (running.channel 0).link ≠ .off ∧ 8 ≤ (8 : Byte).toNat := by
  decide

theorem witness_SetCalendarSlotsWritesItsSlots :
    State.reset.takes .authority = true ∧
      ([0x03] : List Byte).length ≠ (2 : Byte).toNat ∧
      (96 ≤ 247 ∧ (2 : Nat) ≤ (2 : Byte).toNat ∧ 95 < (96 : Byte).toNat ∧
        96 < (95 : Byte).toNat + (2 : Byte).toNat ∧ ∃ b ∈ ([0x0C] : List Byte), 12 ≤ b.toNat % 16) ∧
      ([0x0B] : List Byte).length = (1 : Byte).toNat ∧ (1 : Byte).toNat = Profile.rest.code ∧ (95 : Byte).toNat ≤ 95 ∧
      (1 : Byte) ≠ 0 ∧ (95 : Byte).toNat + (1 : Byte).toNat ≤ 96 ∧
      ∀ b ∈ ([0x0B] : List Byte), b.toNat % 16 < 12 := by decide

theorem witness_SetClassStoresClampedParameters :
    State.reset.takes .authority = true ∧ (11 : Byte).toNat = (11 : ClassNo).val ∧
      (60 : Byte).toNat = IntervalLength.min60.minutes ∧ (0 : Byte).toNat = boolCode false ∧
      12 ≤ (12 : Byte).toNat ∧ (0 : Byte).toNat ∉ [5, 10, 15, 30, 60] ∧ 2 ≤ (2 : Byte).toNat := by decide

theorem witness_SetDayRulesSetsAllThree :
    State.reset.takes .authority = true ∧ (127 : Byte).toNat < 128 ∧ (0xFB : Byte).toNat % 16 = (11 : ClassNo).val ∧
      (1 : Byte).toNat = boolCode true ∧ 128 ≤ (128 : Byte).toNat ∧ 12 ≤ (12 : Byte).toNat % 16 ∧
      2 ≤ (2 : Byte).toNat := by decide

/-- The running state with 16 rest days listed, the first of them the current day. -/
def fullList : State :=
  { running with timebase := { running.timebase with restDays := (List.range 16).map fun n => BitVec.ofNat 16 (1201 + n) } }

theorem witness_RestDayCommandsKeepTheOrder :
    (State.reset.takes .authority = true ∧ State.reset.timebase.timeValid = false) ∧
      (running.takes .authority = true ∧ running.timebase.timeValid = true ∧ 1200#16 < running.timebase.time.day) ∧
      (fullList.takes .authority = true ∧ fullList.timebase.timeValid = true ∧
        fullList.timebase.time.day ≤ 1201#16 ∧ 1201#16 ∈ fullList.timebase.restDays ∧
        1217#16 ∉ fullList.timebase.restDays ∧ 16 ≤ fullList.timebase.restDays.length) ∧
      running.timebase.time.day ≤ 1201#16 ∧ 1201#16 ∉ running.timebase.restDays ∧
      running.timebase.restDays.length < 16 := by decide

theorem witness_ClearCountersClearsOnlyCounters : State.reset.takes .authority = true := by decide

theorem witness_SetGapKeepsConcealBelowLoss :
    State.reset.takes .authority = true ∧ (32#16 ≠ 0xFFFF#16 ∨ 0xFFFF#16 ≠ 0xFFFF#16) := by decide

theorem witness_DetectionSettingsAreStoredClamped : State.reset.takes .authority = true := by decide

theorem witness_ActivityAndEdgeCommandsDoOnlyTheirPart :
    (State.reset.takes .site = true ∧ State.reset.timebase.slice = none) ∧ State.reset.takes .authority = true ∧
      running.takes .site = true ∧ running.timebase.slice = some (tag 8) := by decide

theorem witness_EdgesReachBothPorts :
    let risen := after (.actRise 7 false) running
    let unseen : State := { risen with activity := { risen.activity with unseen := 0x80 } }
    (running.nrstLow = false ∧ member running.activity.level 7 = false) ∧
      (risen.nrstLow = false ∧ member risen.activity.level 7 = true ∧ member risen.activity.unseen 7 = false) ∧
      (member unseen.activity.level 7 = true ∧ member unseen.activity.unseen 7 = true) ∧
      ((after .nrstLow running).nrstLow = true ∧ member (after .nrstLow running).activity.level 7 = false) ∧
      (after .nrstLow risen).nrstLow = true ∧ member (after .nrstLow risen).activity.level 7 = true := by decide

/-- R95, R100: a seen rise sets the line's level, its high-seen mark and the flag of the port that enables the line. -/
theorem test_rise_sets_the_flag_of_the_enabling_port :
    let risen := after (.actRise 7 false) { running with site := { running.site with rise := 0x80, edges := 0x01 } }
    risen.activity.level = running.activity.level ||| 0x80 ∧
      risen.activity.highSeen = running.activity.highSeen ||| 0x80 ∧
      risen.site.edges = 0x81 ∧ risen.authority.edges = running.authority.edges := by decide

theorem witness_SetWarnFractionReformsTheStates : running.takes .site = true := by decide

theorem witness_RoutesAreSetUnlessLocked :
    let locked : State := { State.reset with matrix := { State.reset.matrix with locked := true } }
    (locked.takes .site = true ∧ locked.matrix.locked = true ∧ locked.takes .authority = true) ∧
      State.reset.takes .site = true ∧ State.reset.matrix.locked = false ∧ 8 ≤ (8 : Byte).toNat ∧
      25 ≤ (25 : Byte).toNat ∧ 2 ≤ (2 : Byte).toNat ∧ (7 : Byte).toNat = (7 : Line).val ∧
      (24 : Byte).toNat = Source.logHigh.code ∧ (1 : Byte).toNat = Polarity.activeLow.code := by decide

theorem witness_RoutingLockHolds :
    let locked : State := { State.reset with matrix := { State.reset.matrix with locked := true } }
    locked.matrix.locked = true ∧ Instr.setRoute .site [3, 0, 1, 0] ≠ .powerOn ∧
      transactionBytes (.setRoute .site [3, 0, 1, 0]) = some (.site, [0x60, 3, 0, 1, 0]) ∧
      (∃ t, exec (.setRoute .site [3, 0, 1, 0]) locked = .next t) ∧
      ∀ p rest, Instr.nrstLow ≠ .setRoute p rest :=
  ⟨rfl, by decide, by decide, ⟨_, rfl⟩, by simp⟩

theorem witness_LinesFollowTheirRoutes :
    (after .nrstLow State.reset).nrstLow = true ∧ State.reset.nrstLow = false ∧
      State.reset.matrix.routes.get 7 = ⟨.low, .activeHigh⟩ := by decide

/-- A log of `n` final records, the oldest numbered 1. -/
def filled (n : Nat) : Log :=
  { Log.reset with
    records := (List.range n).map fun i => ⟨BitVec.ofNat 32 (1 + i), ⟨none, Time.zero, .config .site (.routingLock true)⟩⟩
    next := BitVec.ofNat 32 (1 + n)
    lag := n }

/-- The open LOSS record numbered 256. -/
def loss : OpenLoss := ⟨256, ⟨1, 0, 0, 0, 0, 1, Time.zero, Time.zero⟩⟩

theorem witness_LogTakesByTheCapacityRule :
    (filled 254).all.length < 255 ∧
      (255 ≤ ({ filled 254 with openLoss := some loss } : Log).all.length) ∧ (filled 255).all.length = 255 ∧
      (filled 255).openLoss = none := by decide +kernel

theorem witness_LogStaysConsecutive :
    ({ filled 255 with openLoss := some loss, next := 257, lag := 256 } : Log).Ok ∧ (filled 2).Ok ∧
      ∃ t, step { State.reset with log := filled 2, pending := [.release .authority [4, 0, 0, 0, 1]] } = .next t :=
  ⟨⟨by decide +kernel, by decide +kernel⟩, ⟨by decide, by decide⟩, ⟨_, rfl⟩⟩

theorem witness_CursorFollowsTheNumbers :
    (filled 2).Ok ∧ (filled 2).cursor = (filled 2).next - BitVec.ofNat 32 (filled 2).lag ∧
      (after (.advance .site [0]) { State.reset with log := filled 2 }).log.lag < 4294967295 :=
  ⟨⟨by decide, by decide⟩, by decide, by decide⟩

theorem witness_FetchReadsAndReleaseRemovesTheOldest :
    let two : State := { State.reset with log := filled 2 }
    (State.reset.takes .authority = true ∧ State.reset.log.all = []) ∧ two.takes .authority = true ∧
      two.log.all = [⟨1, ⟨none, Time.zero, .config .site (.routingLock true)⟩⟩,
        ⟨2, ⟨none, Time.zero, .config .site (.routingLock true)⟩⟩] ∧ 3#32 ≠ 1#32 := by decide

/-- A log of two records, 1 and 2, whose cursor numbers no record held: a saturated lag has brought it there. -/
def strayCursor (lag : Nat) : Log := { filled 2 with cursor := 9, lag := lag }

theorem witness_PeekReadsAndAdvanceMovesTheCursor :
    (State.reset.takes .site = true ∧ State.reset.log.lag = 0) ∧
      (({ State.reset with log := filled 2 } : State).takes .site = true ∧ (filled 2).lag ≠ 0) ∧ (filled 2).Ok ∧
      (filled 2).cursor = (filled 2).next - BitVec.ofNat 32 (filled 2).lag ∧
      ((strayCursor 1).Ok ∧ (strayCursor 1).lag ≤ (strayCursor 1).all.length ∧
        ∀ r ∈ (strayCursor 1).all, r.seq ≠ (strayCursor 1).cursor) ∧
      (strayCursor 3).Ok ∧ (strayCursor 3).all.length < (strayCursor 3).lag :=
  ⟨by decide, by decide, ⟨by decide, by decide⟩, by decide, ⟨⟨by decide, by decide⟩, by decide, by decide⟩,
    ⟨by decide, by decide⟩, by decide⟩

theorem witness_TheFirstLatchWins :
    (running.channel 7).link = .off ∧ ((running.channel 0).link ≠ .off ∧ (running.channel 0).interval = none) ∧
      ((on0 fun ch => { ch with interval := some opened }).channel 0).interval = some opened ∧
      running.takes .site = true ∧ (1 : Byte) ≠ 0 ∧ 8 ≤ (8 : Byte).toNat ∧ (running.port .site).slots.get 0 = none ∧
      ((after (.latch .site [1, 1]) running).port .site).slots.get 0 = some (running.capture 0) := by decide

theorem witness_StatusReadsChangeNothing :
    running.takes .site = true ∧ running.takes .authority = true ∧ 8 ≤ (8 : Byte).toNat ∧ 7 ≤ (7 : Byte).toNat := by
  decide

theorem witness_PinResetDiscardsOpenWork :
    running.nrstLow = false ∧ (afterAll [.nrstLow, .actRise 2 false, .chipSelectFall .site] running).nrstLow = true ∧
      ((afterAll [.chipSelectFall .site, .nrstLow] running).port .site).transaction.map Transaction.spoiled = some true := by
  decide

theorem witness_RecordsAndCapturesKeepTheirLayouts :
    (∀ l ∈ [(⟨none, ⟨1201, 8⟩, .config .authority (.gapSettings 3 9)⟩ : Offer),
        ⟨some 7, ⟨1201, 8⟩, .gap ⟨⟨1201, 0⟩, ⟨1201, 7⟩, 8, .cal, none, true, ⟨1201, 0⟩⟩⟩],
      ((⟨5, l⟩ : Record).bytes true).length = 48) ∧ (running.capture 0).bytes.length = 35 := by decide

theorem witness_SliceClockRunsOnTheCrystal :
    let started := after .sliceClockStart State.reset
    State.reset.crystalRunning = false ∧ (after .nrstLow running).nrstLow = true ∧ started.crystalRunning = true ∧
      (started.nrstLow = false ∧ started.timebase.slice = none ∧ started.timebase.lastSlice = none ∧
        started.pendingTimed = none ∧ started.timebase.time.sod.val % 7200 = 0) ∧
      ({ started with timebase := { started.timebase with time := ⟨0, 7201⟩ } } : State).timebase.time.sod.val % 7200 ≠ 0 ∧
      (withCommand .authority (.busy (.channelOn 7)) started).pendingTimed = some (.channelOn 7) ∧
      (withCommand .authority (.busy (.setTime ⟨1201, 8⟩ 3)) started).timebase.slice = none := by decide

theorem witness_FramesRunThroughTheAcceptanceChecks :
    (after .nrstLow running).nrstLow = true ∧ (after (.boundary []) running).headLink.driverOn = true ∧
      running.nrstLow = false ∧ running.headLink.driverOn = false ∧ running.headLink.inFrame = [] ∧
      ([0x52, 0x01] : List Byte).length < 3 ∧
      (([0x52] : List Byte).length ≠ 8 ∧ [0x52, 0x9B, 0x47] = [0x52] ++ put2 (crc [0x52]).toNat) ∧
      (running.channel 7).link = .off ∧ ((running.channel 0).link ≠ .off ∧ running.headLink.syncTag ≠ some 6) ∧
      (running.headLink.syncTag = some 7 ∧ (running.channel 0).held ≠ none) ∧ (running.channel 1).link ≠ .off ∧
      (running.channel 1).held = none := by decide +kernel

theorem witness_SyncNamesTheSliceThatEnded :
    let sending := after (.boundary []) running
    let started := after .sliceClockStart State.reset
    (running.clockRuns = true ∧ running.timebase.slice = some (tag 8) ∧ running.headLink.driverOn = false) ∧
      (sending.clockRuns = true ∧ sending.timebase.slice ≠ none ∧ sending.headLink.driverOn = true) ∧
      started.clockRuns = true ∧ started.timebase.slice = none ∧ started.headLink.driverOn = false := by decide

theorem witness_LinkStatesMoveAtTheDeadline :
    let voided : State := { running with timebase := { running.timebase with lastSlice := some ⟨tag 7, true⟩ } }
    let second := after (.boundary []) (after .sliceClockStart State.reset)
    running.clockRuns = true ∧ running.pendingTimed = none ∧ running.timebase.lastSlice = some ⟨tag 7, false⟩ ∧
      (List.finRange 8).map (fun c =>
        (((frameAtBoundary [] running).channel c).link, interpret ((frameAtBoundary [] running).channel c).held)) =
      [(.live, .level 750 900 false), (.live, .missing), (.live, .cal), (.search, .level 750 900 false),
        (.live, .missing), (.off, .missing), (.off, .missing), (.off, .missing)] ∧
      ((running.channel 3).acquire = 2 ∧ running.settings.lossCount ≤ (running.channel 4).miss + 1) ∧
      (voided.clockRuns = true ∧ voided.pendingTimed = none) ∧
      second.clockRuns = true ∧ second.pendingTimed = none ∧ second.timebase.slice ≠ none ∧
        second.timebase.lastSlice = none := by decide

theorem witness_SiteTimeAdvancesBySlices :
    let last : State := { running with timebase := { running.timebase with time := ⟨1201, 691199⟩ } }
    let wrap : State := { running with timebase := { running.timebase with time := ⟨65535, 691199⟩ } }
    (running.clockRuns = true ∧ running.timebase.slice ≠ none ∧ running.pendingTimed = none ∧
        running.timebase.time.sod.val < 691199) ∧
      (last.clockRuns = true ∧ last.timebase.time.sod.val = 691199 ∧ last.timebase.time.day ≠ 65535#16) ∧
      wrap.clockRuns = true ∧ wrap.timebase.time.day = 65535#16 := by decide

theorem witness_TimeStepMovesTheSiteTime :
    let s := withCommand .authority (.busy (.setTime ⟨1201, 62640⟩ 0)) running
    s.clockRuns = true ∧ s.pendingTimed = some (.setTime ⟨1201, 62640⟩ 0) := by decide

theorem witness_TagsCarryTheCalendar : running.clockRuns = true ∧ running.timebase.timeValid = true := by decide

/-- The running state with an event on channel 0, whose interval is open. -/
def onEvent (e : Event) (held : Option Report) : State :=
  on0 fun ch => { ch with held := held, interval := some opened, event := some e }

/-- The running state in slice 691 199 of a day, plant forbidden, with an episode on its eighth pause slice. -/
def lastSlice (day : BitVec 16) : State :=
  { running with
    timebase :=
      { running.timebase with
        time := ⟨day, 691199⟩
        slice := some { tag 691199 with plant := false } }
    activity := { running.activity with episode := some ⟨⟨1201, 5⟩, ⟨1201, 5⟩, 1, 1, 7, 1, 3⟩ } }

theorem witness_NamedBoundariesAreBoundaries :
    ((lastSlice 1201).clockRuns = true ∧ (lastSlice 1201).timebase.slice ≠ none ∧ (lastSlice 1201).pendingTimed = none ∧
        (lastSlice 1201).timebase.time.sod.val = 691199 ∧ (lastSlice 65535).timebase.time.day = 65535#16) ∧
      ((lastSlice 1201).activity.episode.map Episode.pause = some 7 ∧
        (lastSlice 1201).activity.highSeen &&& (lastSlice 1201).activity.enable = 0) ∧
      (running.timebase.lastSlice ≠ none ∧ (running.channel 3).acquire = 2 ∧
        interpret (running.channel 3).held ≠ .missing) ∧
      (interpret (running.channel 4).held = .missing ∧
        running.settings.lossCount ≤ (running.channel 4).miss + 1) ∧
      ((onEvent (impulse 1 5) none).handedOn [] 0 = some .missing ∧
        (((onEvent (impulse 1 5) none).channel 0).event = some (impulse 1 5)) ∧ triggers 900 1200 .missing = false) ∧
      (onEvent (impulse 2 65534) none).handedOn [] 0 = some .missing ∧ 65535 ≤ (impulse 2 65534).age + 1 := by decide

theorem witness_BoundaryOffersOneBatchInOrder :
    running.clockRuns = true ∧ running.pendingTimed ≠ some .restart ∧ running.pendingTimed = none ∧
      running.headLink.inFrame ++ [] = [] ∧ (after (.boundary []) running).headLink.driverOn = true := by decide

/-- The running state with a gap run of `n` slices on channel 0, after a slice of energy `before`. -/
def onRun (n : Nat) (before : Option Nat) : State :=
  on0 fun _ => { gapped with gap := gapped.gap.map fun g => { g with length := n, before := before } }

theorem witness_AccountsAddTheSlice :
    (running.clockRuns = true ∧ running.pendingTimed = none ∧ running.timebase.lastSlice = some ⟨tag 7, false⟩) ∧
      (List.finRange 8).map (running.handedOn []) =
        [some (.level 750 900 false), some .missing, some .cal, some (.level 750 900 false), some .missing, none, none,
          none] ∧
      (running.channel 0).gap = none ∧
      ((onRun 3 (some 331130000)).handedOn [] 0 = some (.level 750 900 false) ∧
        ((onRun 3 (some 331130000)).channel 0).gap = gapped.gap ∧ 3 ≤ running.settings.concealMax) ∧
      ((onRun 9 none).handedOn [] 0 = some (.level 750 900 false) ∧
        ((onRun 9 none).channel 0).gap.map GapRun.before = some none) ∧
      running.activity.newVerdict.map ActivityVerdict.quiet ≠ some true ∧
      ({ running with activity :=
          { running.activity with
            newVerdict := some (sliceVerdict running.activity (tag 7) false)
            quiet := 0 } } : State).activity.newVerdict.map ActivityVerdict.quiet = some false ∧
      ({ running with activity :=
          { running.activity with newVerdict := some ⟨⟨1201, 7⟩, 0, false, false, true, false, false⟩ } } :
        State).activity.newVerdict.map ActivityVerdict.quiet = some true := by decide

theorem witness_CloseCheckComesBeforeTheAdd :
    running.clockRuns = true ∧ running.pendingTimed = none ∧ running.timebase.lastSlice = some ⟨tag 7, false⟩ ∧
      running.handedOn [] 0 = some (.level 750 900 false) ∧ (running.channel 0).interval = none ∧
      (((on0 fun ch => { ch with interval := some { opened with elapsed := opened.planned } }).channel 0).interval =
        some { opened with elapsed := opened.planned }) ∧
      (opened.elapsed ≠ opened.planned ∧ (tag 7).cls = opened.cls) ∧
      (tag 7).cls ≠ ({ opened with cls := 4 } : Interval).cls := by decide

theorem witness_GapRunsFollowTheMissingSlices :
    (running.handedOn [] 1 = some .missing ∧ (running.channel 1).gap = none ∧
        running.handedOn [] 0 = some (.level 750 900 false) ∧ running.handedOn [] 2 = some .cal) ∧
      ((on0 fun _ => gapped).handedOn [] 0 = some (.level 750 900 false) ∧
        ((on0 fun _ => gapped).channel 0).gap = gapped.gap) ∧
      ((on0 fun _ => { gapped with held := none }).handedOn [] 0 = some .missing ∧
        (on0 fun _ => { gapped with held := some ⟨0, 0, 4⟩ }).handedOn [] 0 = some .cal) ∧
      ∀ n ∈ [7, 8], (onRun n none).handedOn [] 0 = some (.level 750 900 false) ∧
        ((onRun n none).channel 0).gap.map (fun g => (g.length, g.before)) = some (n, none) := by decide

theorem witness_EventsOpenHoldAndClose :
    (running.handedOn [] 0 = some (.level 750 900 false) ∧ (running.channel 0).event = none) ∧
      ((on0 fun ch => { ch with held := some ⟨1400, 1500, 0⟩ }).handedOn [] 0 = some (.level 1400 1500 false) ∧
        opened.lmax ≤ 1400) ∧
      ((onEvent (impulse 2 65533) (some ⟨950, 1190, 0⟩)).handedOn [] 0 = some (.level 950 1190 false) ∧
        (impulse 2 65533).lmaxThreshold ≤ 950 ∧ (impulse 2 65533).age + 1 < 65535) ∧
      65535 ≤ (impulse 2 65534).age + 1 ∧
      ((onEvent (impulse 1 5) none).handedOn [] 0 = some .missing ∧ (impulse 1 5).hold ≤ 1 ∧ 2 ≤ (impulse 2 5).hold) := by
  decide

theorem witness_SliceEndsAreJudged :
    running.clockRuns = true ∧ running.timebase.slice = some (tag 8) ∧
      (withCommand .authority (.busy .restart) running).pendingTimed = some .restart := by decide

theorem witness_EpisodesRunAcrossShortPauses :
    let paused := lastSlice 1201
    let seen : State := { paused with activity := { paused.activity with highSeen := 1, enable := 1 } }
    (running.clockRuns = true ∧ running.timebase.slice = some (tag 8) ∧ running.pendingTimed = none ∧
        running.activity.episode = none ∧ (tag 8).plant = true) ∧
      (paused.timebase.slice = some { tag 691199 with plant := false } ∧
        paused.activity.episode = some ⟨⟨1201, 5⟩, ⟨1201, 5⟩, 1, 1, 7, 1, 3⟩) ∧
      seen.clockRuns = true ∧ seen.pendingTimed = none ∧ seen.activity.episode = paused.activity.episode ∧
      seen.activity.highSeen &&& seen.activity.enable ≠ 0 := by decide

theorem witness_TimedCommandsTakeEffectAtTheBoundary :
    running.clockRuns = true ∧
      (withCommand .authority (.busy (.channelOn 7)) running).pendingTimed = some (.channelOn 7) ∧
      (withCommand .authority (.busy (.channelOff 0)) running).pendingTimed = some (.channelOff 0) ∧
      (withCommand .authority (.busy (.cut 0x81)) running).pendingTimed = some (.cut 0x81) := by decide

theorem witness_RestartClosesOpenWorkAndKeepsTheSettings :
    let s := withCommand .authority (.busy .restart) running
    s.clockRuns = true ∧ s.pendingTimed = some .restart := by decide

theorem witness_LevelQuantitiesKeepTheirBounds :
    (inScale 10000 ∧ inScale (10 ^ 16)) ∧
      (100 ≤ (lconv (energy 700) : Int) - lconv (energy 600) ∧ (lconv (energy 629) : Int) - lconv (energy 600) ≤ 29 ∧
        30 ≤ (lconv (energy 630) : Int) - lconv (energy 600) ∧
        (lconv (energy 699) : Int) - lconv (energy 600) ≤ 99) :=
  ⟨⟨⟨by decide, by decide⟩, ⟨by decide, by decide⟩⟩, by decide⟩

theorem witness_AssessmentGivesTheVerdict :
    let iv : Interval := { opened with elapsed := 4, measured := 3, missing := 1, nbg := 2 }
    (({ iv with cal := 4 } : Interval).elapsed - 4 = 0 ∧ (2 + 0) * 4 < (4 - 0) * 3) ∧
      (iv.elapsed - iv.cal ≠ 0 ∧ (iv.elapsed - iv.cal) * 3 ≤ (iv.measured + iv.concealed) * 4) ∧
      (iv.nbg * 2 ≥ iv.measured + iv.concealed ∧ ¬({ iv with nbg := 1 } : Interval).nbg * 2 ≥ 3) := by decide

/-- The running state with two rest days listed, the first of them the current day. -/
def twoDays : State := { running with timebase := { running.timebase with restDays := [1201, 1203] } }

theorem witness_PowerOnGivesTheResetValues : ∃ t, exec .powerOn running = .next t := ⟨_, rfl⟩

theorem witness_LconvInvertsTheEnergyScale :
    energy 1399 < energy 1400 ∧ lconv (energy 200) = 200 ∧ lconv (energy 1400) = 1400 ∧
      (1400 ≤ lconv (2 ^ 80 - 1) ∧ energy 1400 ≤ 2 ^ 80 - 1) := by decide

theorem witness_RestDayListStaysInOrder : twoDays.timebase.RestDaysOk ∧ ∃ t, step twoDays = .next t :=
  ⟨⟨by decide, by decide, by simp [twoDays, running]⟩, ⟨_, rfl⟩⟩

/-- Every class of the table at its reset value lies in its ranges. -/
theorem reset_classes_in_range (i : Fin 12) : (State.reset.timebase.classes.get i).InRange := by
  have h : State.reset.timebase.classes.get i = ClassParams.reset := by
    simp [State.reset, Timebase.reset, Vector.get]
  rw [h]
  exact ⟨by decide, by decide, by decide⟩

theorem witness_SettingsAndCountsStayInRange :
    State.reset.SettingsOk ∧ State.reset.LinksOk ∧
      ∃ t, step { State.reset with pending := [.sliceClockStart] } = .next t :=
  ⟨⟨reset_classes_in_range, by unfold Settings.InRange; decide, by decide⟩,
    ⟨by decide, by unfold ChannelState.LinkOk; decide⟩, ⟨_, rfl⟩⟩

/-- The running state with a gap run on channel 0. -/
def onGap : State := on0 fun _ => gapped

/-- A channel with no open work fits together. -/
theorem idle_work {ch : ChannelState} (h1 : ch.interval = none) (h2 : ch.gap = none) (h3 : ch.event = none)
    (h4 : ch.link = .off → ch = ChannelState.reset) : ch.WorkOk := by
  refine ⟨by simp [h1], by simp [h2], by simp [h3], fun h => ?_⟩
  rw [h4 h]
  exact ⟨rfl, rfl, rfl, rfl, rfl, rfl, rfl, rfl⟩

/-- A channel with no open work and no energies holds none out of bounds. -/
theorem idle_energy {ch : ChannelState} (h1 : ch.interval = none) (h2 : ch.gap = none) (h3 : ch.event = none)
    (h4 : ch.background = ⟨none, 0⟩) (h5 : ch.prev = none) : ch.EnergyOk :=
  ⟨by simp [h1], by simp [h3], by simp [h4], by simp [h4], by simp [h5], by simp [h2]⟩

theorem gapped_work : gapped.WorkOk := by
  refine ⟨fun iv hiv => ?_, fun g hg => ?_, nofun, nofun⟩
  · rw [← Option.some.inj hiv]
    unfold Interval.CountsOk
    decide
  · rw [← Option.some.inj hg]
    exact ⟨by decide, by decide, fun _ => ⟨_, rfl, by decide⟩⟩

theorem gapped_energy : gapped.EnergyOk := by
  refine ⟨fun iv hiv => ?_, nofun, fun e he => ?_, by decide, nofun, fun g e hg he => ?_⟩
  · rw [← Option.some.inj hiv]
    unfold Interval.EnergyOk
    decide
  · rw [← Option.some.inj he]
    unfold inScale
    decide
  · rw [← Option.some.inj hg] at he
    rw [← Option.some.inj he]
    unfold inScale
    decide

theorem others_idle : ∀ c : Channel, c ≠ 0 →
    (onGap.channel c).interval = none ∧ (onGap.channel c).gap = none ∧ (onGap.channel c).event = none ∧
      (onGap.channel c).background = ⟨none, 0⟩ ∧ (onGap.channel c).prev = none ∧
      ((onGap.channel c).link = .off → onGap.channel c = ChannelState.reset) := by decide

theorem onGap_work : onGap.WorkOk := by
  intro c
  by_cases h : c = 0
  · subst h
    exact gapped_work
  · obtain ⟨h1, h2, h3, -, -, h6⟩ := others_idle c h
    exact idle_work h1 h2 h3 h6

theorem witness_CountsOfOpenIntervalsAddUp : onGap.WorkOk ∧ ∃ t, step onGap = .next t := ⟨onGap_work, ⟨_, rfl⟩⟩

theorem witness_AccumulatorsStayWithin80Bits : onGap.EnergiesOk ∧ ∃ t, step onGap = .next t := by
  refine ⟨⟨by decide, onGap_work, fun c => ?_⟩, ⟨_, rfl⟩⟩
  by_cases h : c = 0
  · subst h
    exact gapped_energy
  · obtain ⟨h1, h2, h3, h4, h5, -⟩ := others_idle c h
    exact idle_energy h1 h2 h3 h4 h5

end Sys2Proof.Tests
end

