-- ==== Sys2Proof/Proofs/SliceTimeAndCalendar.lean ====
section
/-! PROOFS. The slice clock, the site calendar, and what every step keeps of them. -/

namespace Sys2Proof.Machine

/-! ### The rest-day list (R12, R13) -/

/-- A day put in stands beside the old ones. -/
theorem insertDay_perm (day : BitVec 16) (l : List (BitVec 16)) : (insertDay day l).Perm (day :: l) := by
  induction l with
  | nil => exact .refl _
  | cons d ds ih =>
    unfold insertDay
    split
    · exact .refl _
    · exact (ih.cons d).trans (.swap day d ds)

theorem mem_insertDay {d day : BitVec 16} {l : List (BitVec 16)} : d ∈ insertDay day l ↔ d = day ∨ d ∈ l := by
  rw [(insertDay_perm day l).mem_iff, List.mem_cons]

/-- A new day put into an increasing list leaves it increasing. -/
theorem insertDay_pairwise {day : BitVec 16} {l : List (BitVec 16)} (hl : l.Pairwise (· < ·)) (hday : day ∉ l) :
    (insertDay day l).Pairwise (· < ·) := by
  induction l with
  | nil => exact List.pairwise_singleton _ _
  | cons d ds ih =>
    obtain ⟨hd, hds⟩ := List.pairwise_cons.1 hl
    rw [List.mem_cons, not_or] at hday
    unfold insertDay
    split
    · rename_i hle
      have hlt : day < d := BitVec.lt_of_le_ne hle hday.1
      refine List.pairwise_cons.2 ⟨fun e he => ?_, hl⟩
      rcases List.mem_cons.1 he with rfl | he
      · exact hlt
      · exact BitVec.lt_trans hlt (hd e he)
    · rename_i hle
      refine List.pairwise_cons.2 ⟨fun e he => ?_, ih hds hday.2⟩
      rcases mem_insertDay.1 he with rfl | he
      · exact BitVec.not_le.1 hle
      · exact hd e he

/-- The list after pruning, where the pruning day is the current one. -/
theorem Timebase.restDaysOk_of_pruned {tb tb' : Timebase} (h : tb.RestDaysOk)
    (hdays : tb'.restDays = pruneRestDays tb'.time.day tb.restDays) : tb'.RestDaysOk := by
  obtain ⟨hord, hlen, -⟩ := h
  unfold Timebase.RestDaysOk
  rw [hdays]
  exact ⟨hord.filter _, (List.length_filter_le _ _).trans hlen, fun d hd => (mem_pruneRestDays.1 hd).2⟩

/-- The list depends on nothing but itself and the current day. -/
theorem Timebase.restDaysOk_congr {tb tb' : Timebase} (h : tb.RestDaysOk) (hdays : tb'.restDays = tb.restDays)
    (htime : tb'.time.day = tb.time.day) : tb'.RestDaysOk := by
  unfold Timebase.RestDaysOk
  rw [hdays, htime]
  exact h

theorem Timebase.restDaysOk_of_empty {tb : Timebase} (h : tb.restDays = []) : tb.RestDaysOk := by
  simp [Timebase.RestDaysOk, h]

/-! ### The advance of site time (R3, R4) -/

/-- All that the advance of site time by one slice can do: the next slice of the day, the day rollover, or the day
wrap. -/
theorem Timebase.advance_cases (tb : Timebase) :
    (∃ h : tb.time.sod.val + 1 < 691200,
        tb.advance = { tb with time := ⟨tb.time.day, ⟨tb.time.sod.val + 1, h⟩⟩ }) ∨
      (tb.time.sod.val = 691199 ∧ tb.time.day ≠ 65535#16 ∧
        tb.advance =
          { tb with
            time := ⟨tb.time.day + 1, 0⟩
            restDays := pruneRestDays (tb.time.day + 1) tb.restDays
            profile := tb.advance.profile } ∧
        (tb.advance.profile = .rest ↔ tb.time.day + 1 ∈ tb.restDays ∨
          tb.restWeekdays.getLsbD (((tb.time.day + 1).toNat + tb.weekdayOffset.val) % 7) = true)) ∨
      (tb.time.sod.val = 691199 ∧ tb.time.day = 65535#16 ∧
        tb.advance =
          { tb with
            time := ⟨0, 0⟩
            restDays := []
            weekdayOffset := tb.weekdayOffset + 2
            profile := tb.advance.profile } ∧
        (tb.advance.profile = .rest ↔ tb.restWeekdays.getLsbD ((tb.weekdayOffset.val + 2) % 7) = true)) := by
  have hsod := tb.time.sod.isLt
  by_cases h : tb.time.sod.val + 1 < 691200
  · exact .inl ⟨h, by simp [Timebase.advance, h]⟩
  · have hlast : tb.time.sod.val = 691199 := by omega
    have hroll : tb.advance = tb.rollover := by simp [Timebase.advance, h]
    rw [hroll]
    by_cases hday : tb.time.day = 65535#16
    · refine .inr (.inr ⟨hlast, hday, by simp [Timebase.rollover, hday], ?_⟩)
      simp [Timebase.rollover, hday, Timebase.chosenProfile_eq_rest, Fin.val_add]
    · refine .inr (.inl ⟨hlast, hday, by simp [Timebase.rollover, hday], ?_⟩)
      simp [Timebase.rollover, hday, Timebase.chosenProfile_eq_rest, mem_pruneRestDays]

/-- The advance keeps the rest-day list in order (R3, R12). -/
theorem Timebase.advance_restDaysOk {tb : Timebase} (h : tb.RestDaysOk) : tb.advance.RestDaysOk := by
  rcases tb.advance_cases with ⟨_, ha⟩ | ⟨-, -, ha, -⟩ | ⟨-, -, ha, -⟩ <;> rw [ha]
  · exact Timebase.restDaysOk_congr h rfl rfl
  · exact Timebase.restDaysOk_of_pruned h rfl
  · exact Timebase.restDaysOk_of_empty rfl

theorem Timebase.slotStart_restDaysOk {tb : Timebase} (h : tb.RestDaysOk) : tb.slotStart.RestDaysOk := by
  rcases tb.slotStart_cases with ⟨-, hs⟩ | ⟨-, hs⟩ <;> rw [hs] <;> exact h

/-- A boundary keeps the rest-day list in order, whatever is pending there (R3, R12, R19). -/
theorem Timebase.atBoundary_restDaysOk {tb : Timebase} (h : tb.RestDaysOk) (timed : Option Timed) :
    (tb.atBoundary timed).RestDaysOk := by
  suffices hn : (tb.toNextSlice timed).RestDaysOk from Timebase.restDaysOk_congr hn rfl rfl
  by_cases hstep : ∃ time weekday, timed = some (.setTime time weekday)
  · obtain ⟨time, weekday, rfl⟩ := hstep
    exact Timebase.restDaysOk_of_pruned h rfl
  · rw [Timebase.toNextSlice_advance tb fun time weekday ht => hstep ⟨time, weekday, ht⟩]
    apply Timebase.slotStart_restDaysOk
    split
    · exact Timebase.advance_restDaysOk h
    · exact h

/-- Every command keeps the rest-day list in order (R12). -/
theorem exec_restDaysOk {i : Instr} {s t : State} (h : s.timebase.RestDaysOk) (ht : exec i s = .next t) :
    t.timebase.RestDaysOk := by
  obtain ⟨hord, hlen, hday⟩ := h
  rcases exec_timebase ht with h1 | h1 | h1 | ⟨timed, h1⟩ | ⟨profile, v, h1⟩ | ⟨_, _, -, h1⟩ | ⟨_, _, _, h1⟩ |
    ⟨day, hle, hnew, hroom, h1⟩ | ⟨day, h1⟩ <;> rw [h1]
  · exact ⟨hord, hlen, hday⟩
  · exact Timebase.restDaysOk_of_empty rfl
  · exact ⟨hord, hlen, hday⟩
  · exact Timebase.atBoundary_restDaysOk ⟨hord, hlen, hday⟩ timed
  · cases profile <;> exact ⟨hord, hlen, hday⟩
  · exact ⟨hord, hlen, hday⟩
  · exact ⟨hord, hlen, hday⟩
  · refine ⟨insertDay_pairwise hord hnew, ?_, fun d hd => ?_⟩
    · rw [(insertDay_perm day _).length_eq]
      exact hroom
    · rcases mem_insertDay.1 hd with rfl | hd
      · exact hle
      · exact hday d hd
  · exact ⟨hord.filter _, (List.length_filter_le _ _).trans hlen, fun d hd => hday d (List.mem_of_mem_filter hd)⟩

/-- Settles O55: each thing that a step can do to the timebase keeps the list in order. -/
theorem restDayListStaysInOrder : Obligations.RestDayListStaysInOrder := by
  intro s t h ht
  rcases step_cases ht with ⟨-, rfl⟩ | ⟨i, rest, -, he⟩
  · exact h
  · exact exec_restDaysOk (s := { s with pending := rest }) h he

end Sys2Proof.Machine
end

section
/-! PROOFS. The ranges that every step keeps: class table, settings, quiet timer, link counts and counters. -/

namespace Sys2Proof.Machine

/-! ### Class table, settings and quiet timer (R16, R103, R109, R116) -/

theorem ClassParams.reset_inRange : ClassParams.reset.InRange := by
  simp [ClassParams.InRange, ClassParams.reset]

/-- The boundary leaves the class table. -/
theorem Timebase.atBoundary_classes (tb : Timebase) (timed : Option Timed) :
    (tb.atBoundary timed).classes = tb.classes := by
  change (tb.toNextSlice timed).classes = tb.classes
  rw [tb.toNextSlice_frame timed]

theorem exec_classes_inRange {i : Instr} {s t : State} (h : ∀ n : Fin 12, (s.timebase.classes.get n).InRange)
    (ht : exec i s = .next t) (n : Fin 12) : (t.timebase.classes.get n).InRange := by
  rcases exec_timebase ht with h1 | h1 | h1 | ⟨timed, h1⟩ | ⟨profile, v, h1⟩ | ⟨m, k, hk, h1⟩ | ⟨_, _, _, h1⟩ |
    ⟨_, -, -, -, h1⟩ | ⟨_, h1⟩ <;> rw [h1]
  · exact h n
  · have hreset : Timebase.reset.classes.get n = ClassParams.reset := Vector.getElem_replicate n.isLt
    rw [hreset]
    exact ClassParams.reset_inRange
  · exact h n
  · rw [Timebase.atBoundary_classes]
    exact h n
  · cases profile <;> exact h n
  · by_cases hm : m = n
    · subst hm
      simpa [Vector.get_eq_getElem] using hk
    · have hv : m.val ≠ n.val := fun he => hm (Fin.ext he)
      simpa [Vector.get_eq_getElem, Vector.getElem_set, hv] using h n
  · exact h n
  · exact h n
  · exact h n

theorem storedLossCount_bounds {stored : Nat} (h : 8 ≤ stored ∧ stored ≤ 255) (given : Option Nat) :
    8 ≤ storedLossCount stored given ∧ storedLossCount stored given ≤ 255 := by
  cases given with
  | none => exact h
  | some v => exact clamp_bounds (by decide) v

/-- CONCEAL_MAX is stored at most 32 and below LOSS_COUNT (R92, steps 2 and 3). -/
theorem storedConcealMax_bounds {stored lossCount : Nat} (h : stored ≤ 32) (hl : 8 ≤ lossCount) (given : Option Nat) :
    storedConcealMax stored lossCount given ≤ 32 ∧ storedConcealMax stored lossCount given < lossCount := by
  unfold storedConcealMax
  cases given with
  | none =>
    dsimp only
    split <;> omega
  | some v =>
    have hv := (clamp_bounds (show 0 ≤ 32 by decide) v).2
    dsimp only
    split <;> omega

theorem exec_settings_inRange {i : Instr} {s t : State} (h : s.settings.InRange) (ht : exec i s = .next t) :
    t.settings.InRange := by
  obtain ⟨hconceal, hloss, hshift, hmin, hquiet, hhold, hcap, hwarn⟩ := h
  rcases exec_settings ht with h1 | h1 | ⟨conceal, loss, h1⟩ | ⟨shift, min, hold, h2, h3, h4, h1⟩ |
    ⟨hold, cap, h2, h3, h1⟩ | ⟨v, h2, h1⟩ <;> rw [h1]
  · exact ⟨hconceal, hloss, hshift, hmin, hquiet, hhold, hcap, hwarn⟩
  · simp [Settings.InRange, Settings.reset]
  · have hl := storedLossCount_bounds hloss loss
    exact ⟨storedConcealMax_bounds hconceal.1 hl.1 conceal, hl, hshift, hmin, hquiet, hhold, hcap, hwarn⟩
  · exact ⟨hconceal, hloss, h2, h3, h4, hhold, hcap, hwarn⟩
  · exact ⟨hconceal, hloss, hshift, hmin, hquiet, h2, h3, hwarn⟩
  · exact ⟨hconceal, hloss, hshift, hmin, hquiet, hhold, hcap, h2⟩

/-- Q stays at most 65535 at a boundary: it counts down or takes QUIET_HOLD (R103, R104). -/
theorem Activity.atBoundary_quiet_le {a : Activity} {quietHold n : Nat} (ha : a.quiet ≤ n) (hq : quietHold ≤ n)
    (slice : Option Tag) (timed : Option Timed) : (a.atBoundary slice timed quietHold).1.quiet ≤ n := by
  cases slice with
  | none =>
    rw [Activity.atBoundary_none]
    dsimp only
    split <;> assumption
  | some tag =>
    rw [Activity.atBoundary_some]
    unfold nextQuiet
    dsimp only
    repeat' split
    all_goals omega

theorem exec_quiet_le {i : Instr} {s t : State} (h : s.activity.quiet ≤ 65535) (hq : s.settings.quietHold ≤ 65535)
    (ht : exec i s = .next t) : t.activity.quiet ≤ 65535 := by
  rcases exec_activity ht with h1 | ⟨_, h1⟩ | h1 | h1 | ⟨_, h1⟩ | h1 | ⟨_, _, _, h1⟩ <;> rw [h1]
  · exact h
  · simp [Activity.resetAt, Settings.reset]
  · exact h
  · exact Activity.atBoundary_quiet_le h hq _ _
  · exact h
  · exact h
  · exact h

/-- Every command keeps class table, settings and quiet timer in their ranges. -/
theorem exec_settingsOk {i : Instr} {s t : State} (h : s.SettingsOk) (ht : exec i s = .next t) : t.SettingsOk := by
  obtain ⟨hclasses, hsettings, hquiet⟩ := h
  have hhold : s.settings.quietHold ≤ 65535 := hsettings.2.2.2.2.1
  exact ⟨exec_classes_inRange hclasses ht, exec_settings_inRange hsettings ht, exec_quiet_le hquiet hhold ht⟩

/-! ### The counters of the head link (R25, R26, R30, R31) -/

/-- CRC and STRAY lie in their ranges (R30). -/
def HeadLink.CountsOk (h : HeadLink) : Prop := h.crc ≤ 65535 ∧ h.stray ≤ 65535

theorem satInc16_le (n : Nat) : satInc16 n ≤ 65535 := by
  rw [satInc16_eq]
  omega

theorem acceptFrame_countsOk {s : State} (h : s.headLink.CountsOk) (frame : List Byte) :
    (acceptFrame frame s).headLink.CountsOk := by
  obtain ⟨hcrc, hstray⟩ := h
  unfold acceptFrame
  repeat' split
  · exact ⟨hcrc, hstray⟩
  · exact ⟨satInc16_le _, hstray⟩
  · exact ⟨hcrc, satInc16_le _⟩
  · exact ⟨hcrc, hstray⟩

theorem endFrame_countsOk {s : State} (h : s.headLink.CountsOk) (heard : List Byte) :
    (endFrame heard s).headLink.CountsOk :=
  acceptFrame_countsOk (s := { s with headLink := { s.headLink with inFrame := [] } }) h _

theorem frameAtBoundary_countsOk {s : State} (h : s.headLink.CountsOk) (heard : List Byte) :
    (frameAtBoundary heard s).headLink.CountsOk := by
  unfold frameAtBoundary
  repeat' split
  · exact h
  · exact endFrame_countsOk h heard
  · exact h

theorem HeadLink.sync_countsOk {h : HeadLink} (hc : h.CountsOk) (ended : Option Tag) : (h.sync ended).CountsOk := by
  cases ended <;> exact hc

theorem HeadLink.atBoundary_countsOk {h : HeadLink} (hc : h.CountsOk) (ended : Option Tag) (timed : Option Timed) :
    (h.atBoundary ended timed).CountsOk := by
  apply HeadLink.sync_countsOk
  split
  · exact ⟨Nat.zero_le _, Nat.zero_le _⟩
  · exact hc

theorem boundaryWork_countsOk {s : State} (h : s.headLink.CountsOk) (heard : List Byte) :
    (boundaryWork (frameAtBoundary heard s)).headLink.CountsOk := by
  rw [boundaryWork_headLink]
  exact HeadLink.atBoundary_countsOk (frameAtBoundary_countsOk h heard) _ _

theorem reachBoundaryIf_countsOk {s : State} (h : s.headLink.CountsOk) (occurs : State → Bool) (heard : List Byte) :
    (reachBoundaryIf occurs heard s).headLink.CountsOk := by
  rcases reachBoundaryIf_cases occurs heard s with h1 | ⟨-, h1⟩ <;> rw [h1]
  · exact h
  · exact boundaryWork_countsOk h heard

/-- A port command whose rule leaves the head link leaves it. -/
theorem portCommand_headLink {k : CommandInfo} {p : Port} {rest : List Byte} {rule : List Byte → State → Answer}
    {s t : State} (ht : portCommand k p rest rule s = .next t)
    (hrule : ∀ {args u v status data}, rule args u = .complete v status data → v.headLink = u.headLink) :
    t.headLink = s.headLink :=
  portCommand_part_same State.headLink State.mapPort_headLink ht fun _ _ _ _ hr => hrule hr

/-- A rule that changes nothing but a port leaves the head link. -/
theorem headLink_of_mapPort {u v : State} {p : Port} (h : ∃ f, v = u.mapPort p f) : v.headLink = u.headLink := by
  obtain ⟨f, rfl⟩ := h
  exact State.mapPort_headLink u p f

/-- A port command leaves CRC and STRAY, but for CLEAR_COUNTERS, which sets them to 0 (R30, R31). -/
theorem exec_port_headLink {i : Instr} {s t : State} {x : Port × List Byte} (hi : transactionBytes i = some x)
    (ht : exec i s = .next t) :
    t.headLink = s.headLink ∨ t.headLink = { s.headLink with crc := 0, stray := 0 } := by
  cases i with
  | ignoredTransaction p => exact .inl (by rw [next_inj ht]; exact State.mapPort_headLink _ _ _)
  | unknownCommand => exact .inl (unknownCommand_part State.headLink State.mapPort_headLink (rest := []) ht)
  | readResponse => exact .inl (by rw [next_inj ht]; exact readResponse_part State.headLink State.mapPort_headLink _ _ _)
  | clearCounters p rest =>
    rcases portCommand_part State.headLink State.mapPort_headLink ht with h | ⟨args, u, _, _, hr, hu, -, -⟩
    · exact .inl h
    · rw [hu, complete_state hr]
      exact .inr (by simp [State.countersCleared])
  | setTime => exact .inl (portCommand_headLink ht fun hr => by rw [setTimeRule_frame hr])
  | setCalendarSlots => exact .inl (portCommand_headLink ht fun hr => by rw [setCalendarSlotsRule_frame hr])
  | setClass => exact .inl (portCommand_headLink ht fun hr => by rw [setClassRule_frame hr])
  | setDayRules => exact .inl (portCommand_headLink ht fun hr => by rw [setDayRulesRule_frame hr])
  | addRestDay => exact .inl (portCommand_headLink ht fun hr => by rw [addRestDayRule_frame hr])
  | dropRestDay => exact .inl (portCommand_headLink ht fun hr => by rw [dropRestDayRule_frame hr])
  | channelOn => exact .inl (portCommand_headLink ht fun hr => by rw [channelOnRule_frame hr])
  | channelOff => exact .inl (portCommand_headLink ht fun hr => by rw [channelOffRule_frame hr])
  | cut => exact .inl (portCommand_headLink ht fun hr => by rw [cutRule_frame hr])
  | setGap => exact .inl (portCommand_headLink ht fun hr => by rw [setGapRule_frame hr])
  | setActivityLines => exact .inl (portCommand_headLink ht fun hr => by rw [setActivityLinesRule_frame hr])
  | setBackground => exact .inl (portCommand_headLink ht fun hr => by rw [setBackgroundRule_frame hr])
  | setEvent => exact .inl (portCommand_headLink ht fun hr => by rw [setEventRule_frame hr])
  | lockRouting => exact .inl (portCommand_headLink ht fun hr => by rw [lockRoutingRule_frame hr])
  | restart => exact .inl (portCommand_headLink ht fun hr => by rw [restartRule_frame hr])
  | fetch => exact .inl (portCommand_headLink ht fun hr => by rw [fetchRule_frame hr])
  | release => exact .inl (portCommand_headLink ht fun hr => by rw [releaseRule_frame hr])
  | setWarnFraction => exact .inl (portCommand_headLink ht fun hr => by rw [setWarnFractionRule_frame hr])
  | activityPulse => exact .inl (portCommand_headLink ht fun hr => by rw [activityPulseRule_frame hr])
  | peek => exact .inl (portCommand_headLink ht fun hr => by rw [peekRule_frame hr])
  | advance => exact .inl (portCommand_headLink ht fun hr => by rw [advanceRule_frame hr])
  | setRoute => exact .inl (portCommand_headLink ht fun hr => by rw [setRouteRule_frame hr])
  | readEdges => exact .inl (portCommand_headLink ht fun hr => by rw [readEdgesRule_frame hr])
  | readDeviceStatus => exact .inl (portCommand_headLink ht fun hr => by rw [readDeviceStatusRule_frame hr])
  | readChannelStatus => exact .inl (portCommand_headLink ht fun hr => by rw [readChannelStatusRule_frame hr])
  | readConfig => exact .inl (portCommand_headLink ht fun hr => by rw [readConfigRule_frame hr])
  | setEdges => exact .inl (portCommand_headLink ht fun hr => headLink_of_mapPort (setEdgesRule_frame hr))
  | clearEdges => exact .inl (portCommand_headLink ht fun hr => headLink_of_mapPort (clearEdgesRule_frame hr))
  | setAttention => exact .inl (portCommand_headLink ht fun hr => headLink_of_mapPort (setAttentionRule_frame hr))
  | latch => exact .inl (portCommand_headLink ht fun hr => headLink_of_mapPort (latchRule_frame hr))
  | readSnapshot => exact .inl (portCommand_headLink ht fun hr => headLink_of_mapPort (readSnapshotRule_frame hr))
  | _ => simp [transactionBytes] at hi

/-- Every command keeps CRC and STRAY in their ranges. -/
theorem exec_countsOk {i : Instr} {s t : State} (h : s.headLink.CountsOk) (ht : exec i s = .next t) :
    t.headLink.CountsOk := by
  cases hi : transactionBytes i with
  | some x =>
    rcases exec_port_headLink hi ht with h1 | h1 <;> rw [h1]
    · exact h
    · exact ⟨Nat.zero_le _, Nat.zero_le _⟩
  | none =>
    cases i with
    | powerOn => rw [next_inj ht]; exact ⟨Nat.zero_le _, Nat.zero_le _⟩
    | sliceClockStart => rw [next_inj ht]; exact h
    | nrstLow => rw [next_inj ht]; split <;> exact h
    | nrstRelease =>
      rw [next_inj ht]
      split
      · exact ⟨Nat.zero_le _, Nat.zero_le _⟩
      · exact h
    | boundary heard =>
      rw [next_inj ht]
      rcases reachBoundary_cases heard s with ⟨-, h1⟩ | ⟨-, h1⟩ <;> rw [h1]
      · exact h
      · exact boundaryWork_countsOk h heard
    | dayRollover => rw [next_inj ht]; exact reachBoundaryIf_countsOk h _ _
    | dayWrap => rw [next_inj ht]; exact reachBoundaryIf_countsOk h _ _
    | linkAcquired => rw [next_inj ht]; exact reachBoundaryIf_countsOk h _ _
    | headLoss => rw [next_inj ht]; exact reachBoundaryIf_countsOk h _ _
    | eventHoldClose => rw [next_inj ht]; exact reachBoundaryIf_countsOk h _ _
    | eventLongClose => rw [next_inj ht]; exact reachBoundaryIf_countsOk h _ _
    | episodePauseClose => rw [next_inj ht]; exact reachBoundaryIf_countsOk h _ _
    | frameReceived heard =>
      rw [next_inj ht]
      split
      · exact h
      · exact endFrame_countsOk h heard
    | actRise l short =>
      have hl : t.headLink = s.headLink := by
        rw [next_inj ht]
        unfold rise seenRise
        repeat' split
        all_goals rfl
      rw [hl]
      exact h
    | actFall l =>
      have hl : t.headLink = s.headLink := by
        rw [next_inj ht]
        dsimp only
        repeat' split
        all_goals rfl
      rw [hl]
      exact h
    | endOfSync => rw [next_inj ht]; exact h
    | chipSelectFall p =>
      rw [next_inj ht, chipSelectFall, State.mapPort_headLink]
      exact h
    | _ => simp [transactionBytes] at hi

/-! ### Link counts of a channel (R27 to R36) -/

theorem ChannelState.reset_linkOk : ChannelState.reset.LinkOk := by simp [ChannelState.LinkOk, ChannelState.reset]

/-- Acquire and miss count depend on nothing else, and so do LATE and DUP. -/
theorem ChannelState.linkOk_congr {ch ch' : ChannelState} (h : ch.LinkOk) (h1 : ch'.acquire = ch.acquire)
    (h2 : ch'.miss = ch.miss) (h3 : ch'.late = ch.late) (h4 : ch'.dup = ch.dup) : ch'.LinkOk := by
  unfold ChannelState.LinkOk
  rw [h1, h2, h3, h4]
  exact h

theorem acceptReport_linkOk {ch : ChannelState} (h : ch.LinkOk) (syncTag : Option Byte) (tag : Byte)
    (report : Report) : (acceptReport syncTag tag report ch).LinkOk := by
  obtain ⟨hacquire, hmiss, hlate, hdup⟩ := h
  rcases acceptReport_cases syncTag tag report ch with h1 | ⟨-, h1 | h1 | h1⟩ <;> rw [h1]
  · exact ⟨hacquire, hmiss, hlate, hdup⟩
  · exact ⟨hacquire, hmiss, satInc16_le _, hdup⟩
  · exact ⟨hacquire, hmiss, hlate, satInc16_le _⟩
  · exact ⟨hacquire, hmiss, hlate, hdup⟩

theorem endFrame_linkOk {s : State} {c : Channel} (h : (s.channel c).LinkOk) (heard : List Byte) :
    ((endFrame heard s).channel c).LinkOk := by
  rcases endFrame_channel heard s c with h1 | ⟨_, _, _, h1⟩ <;> rw [h1]
  · exact h
  · exact acceptReport_linkOk h _ _ _

theorem frameAtBoundary_linkOk {s : State} {c : Channel} (h : (s.channel c).LinkOk) (heard : List Byte) :
    ((frameAtBoundary heard s).channel c).LinkOk := by
  rcases frameAtBoundary_channel heard s c with h1 | ⟨_, _, _, h1⟩ <;> rw [h1]
  · exact h
  · exact acceptReport_linkOk h _ _ _

/-- A deadline leaves the acquire count below 3 and the miss count below LOSS_COUNT (R34 to R36). -/
theorem linkDeadline_bounds {lossCount : Nat} {l : Link} (hloss : lossCount ≤ 255) (ha : l.acquire ≤ 2)
    (hm : l.miss ≤ 254) (finding : SliceResult) :
    (linkDeadline lossCount l finding).1.acquire ≤ 2 ∧ (linkDeadline lossCount l finding).1.miss ≤ 254 := by
  unfold linkDeadline searchDeadline liveDeadline lostDeadline
  cases l.state with
  | off => exact ⟨ha, hm⟩
  | _ =>
    dsimp only
    repeat' split
    all_goals dsimp only; omega

theorem deadlineLink_linkOk {lossCount : Nat} {ch : ChannelState} (hloss : lossCount ≤ 255) (h : ch.LinkOk) :
    (deadlineLink lossCount ch).1.LinkOk := by
  rcases deadlineLink_cases lossCount ch with ⟨-, h1⟩ | ⟨r, -, -, h1⟩ <;> rw [h1]
  · exact h
  · obtain ⟨hacquire, hmiss, hlate, hdup⟩ := h
    obtain ⟨ha, hm⟩ := linkDeadline_bounds (l := ch.linkOf) hloss hacquire hmiss (interpret ch.held)
    exact ⟨ha, hm, hlate, hdup⟩

theorem deadline_linkOk {s : State} {c : Channel} (hloss : s.settings.lossCount ≤ 255) (h : (s.channel c).LinkOk)
    (heard : List Byte) : (deadline (frameAtBoundary heard s) c).ch.LinkOk := by
  have hf := frameAtBoundary_linkOk h heard
  rcases deadline_cases heard s c with ⟨-, _, h1, rfl | rfl⟩ | ⟨_, _, -, -, -, -, h1⟩ <;> rw [h1]
  · exact hf
  · exact deadlineLink_linkOk hloss hf
  · rw [account_frame]
    exact ChannelState.linkOk_congr (deadlineLink_linkOk hloss hf) rfl rfl rfl rfl

theorem ChannelWork.closeAll_linkOk {w : ChannelWork} (h : w.ch.LinkOk) (c : Channel) (cause : Cause) :
    (w.closeAll c cause).ch.LinkOk := by
  rw [w.closeAll_ch]
  exact h

/-- No timed command takes a count out of its range (R30, R38, R39). -/
theorem ChannelWork.takeTimed_linkOk {w : ChannelWork} (h : w.ch.LinkOk) (timed : Option Timed) (c : Channel) :
    (w.takeTimed timed c).ch.LinkOk := by
  have hlate := h.2.2
  unfold ChannelWork.takeTimed
  split
  · exact h
  · exact ChannelWork.closeAll_linkOk h c .timeStep
  · split
    · rcases w.cut_cases c with ⟨-, h1⟩ | ⟨_, -, -, h1, -⟩ <;> rw [h1] <;> exact h
    · exact h
  · split
    · exact ⟨Nat.zero_le _, Nat.zero_le _, hlate⟩
    · exact h
  · split
    · exact ⟨Nat.zero_le _, Nat.zero_le _, (ChannelWork.closeAll_linkOk h c .channelOff).2.2⟩
    · exact h
  · exact ⟨Nat.zero_le _, Nat.zero_le _, Nat.zero_le _, Nat.zero_le _⟩

theorem exec_linkOk {i : Instr} {s t : State} (hloss : s.settings.lossCount ≤ 255) (h : ∀ c, (s.channel c).LinkOk)
    (ht : exec i s = .next t) (c : Channel) : (t.channel c).LinkOk := by
  unfold State.channel
  rcases exec_channels ht with h1 | h1 | h1 | ⟨heard, h1⟩ | ⟨heard, -, h1⟩ | h1 | ⟨v, h1⟩ <;> rw [h1]
  · exact h c
  · rw [Oct.get_fill]
    exact ChannelState.reset_linkOk
  · rw [Oct.get_map]
    exact h c
  · exact endFrame_linkOk (h c) heard
  · rw [boundaryWork_channels, Oct.get_ofFn]
    exact ChannelWork.takeTimed_linkOk (deadline_linkOk hloss (h c) heard) _ c
  · rw [Oct.get_map]
    exact ⟨(h c).1, (h c).2.1, Nat.zero_le _, Nat.zero_le _⟩
  · rw [Oct.get_map]
    exact h c

/-- Every command keeps the link counts and counters in their ranges. -/
theorem exec_linksOk {i : Instr} {s t : State} (hs : s.SettingsOk) (h : s.LinksOk) (ht : exec i s = .next t) :
    t.LinksOk := by
  obtain ⟨hloss, hcrc, hstray, hchannels⟩ := h
  obtain ⟨hcrc', hstray'⟩ := exec_countsOk (s := s) ⟨hcrc, hstray⟩ ht
  obtain ⟨-, ⟨-, ⟨-, hloss'⟩, -⟩, -⟩ := exec_settingsOk hs ht
  exact ⟨hloss', hcrc', hstray', exec_linkOk hloss hchannels ht⟩

/-- Settles O56: each part of the state that a step can change keeps its ranges. -/
theorem settingsAndCountsStayInRange : Obligations.SettingsAndCountsStayInRange := by
  intro s t hs hl ht
  rcases step_cases ht with ⟨-, rfl⟩ | ⟨i, rest, -, he⟩
  · exact ⟨hs, hl⟩
  · exact ⟨exec_settingsOk (s := { s with pending := rest }) hs he,
      exec_linksOk (s := { s with pending := rest }) hs hl he⟩

end Sys2Proof.Machine
end

section
/-! PROOFS. The commands of the authority that wait for a boundary or set the calendar. -/

namespace Sys2Proof.Machine

/-! ### Taking a command of the authority -/

/-- A command of the authority port of the right length is answered by its own rule. -/
theorem authorityCommand_framed {n : Nat} {args : List Byte} {rule : List Byte → State → Answer} {s : State}
    (h : s.takes .authority = true) (hlen : args.length = n) (hn : n ≤ 250) :
    portCommand (authorityCommand n) .authority (framed args) rule s =
      .next ((s.opened .authority).takeAnswer .authority (rule args (s.opened .authority))) :=
  portCommand_framed h (hlen ▸ hn) rfl (by simp [authorityCommand, ArgLength.fits, hlen])

/-- A command whose rule makes it wait leaves the port BUSY with it (R179). -/
theorem authorityCommand_waits {n : Nat} {args : List Byte} {rule : List Byte → State → Answer} {s : State} {t : Timed}
    (h : s.takes .authority = true) (hlen : args.length = n) (hn : n ≤ 250)
    (hr : rule args (s.opened .authority) = .wait t) :
    portCommand (authorityCommand n) .authority (framed args) rule s = .next (s.awaits .authority t) := by
  rw [authorityCommand_framed h hlen hn, hr, opened_takeAnswer_wait]

/-- A command that its rule refuses changes nothing but its port (R178). -/
theorem authorityCommand_refused {n : Nat} {args : List Byte} {rule : List Byte → State → Answer} {s : State}
    {status : Status} (h : s.takes .authority = true) (hlen : args.length = n) (hn : n ≤ 250)
    (hr : rule args (s.opened .authority) = refuse (s.opened .authority) status) :
    portCommand (authorityCommand n) .authority (framed args) rule s = .next (s.refusedWith .authority status) := by
  rw [authorityCommand_framed h hlen hn, hr, opened_takeAnswer_refuse]

/-- A command that its rule completes on the state `t`, the ports apart, is answered on it (R174). -/
theorem authorityCommand_answered {n : Nat} {args data : List Byte} {rule : List Byte → State → Answer} {s t t' : State}
    {status : Status} (h : s.takes .authority = true) (hlen : args.length = n) (hn : n ≤ 250)
    (hr : rule args (s.opened .authority) = .complete t' status data)
    (ht : t' = t.mapPort .authority fun q =>
      { q with transaction := none, clockedOut := [s.firstByte .authority], command := .idle }) :
    portCommand (authorityCommand n) .authority (framed args) rule s = .next (s.answered .authority t status data) := by
  rw [authorityCommand_framed h hlen hn, hr, opened_takeAnswer_complete ht rfl]

/-! ### Timed commands (R19, R38, R39, R66, R182) -/

theorem arg2_setTime (day sod weekday : Nat) (h : day < 65536) :
    arg2 (put2 day ++ put3 sod ++ put1 weekday) 0 = day := by
  rw [List.append_assoc, arg2_append_put2 _ _ h]

theorem arg3_setTime (day sod weekday : Nat) (h : sod < 16777216) :
    arg3 (put2 day ++ put3 sod ++ put1 weekday) 2 = sod := by
  simpa [arg3, arg2, put2] using arg3_append_put3 (put1 weekday) sod h

theorem arg1_setTime (day sod weekday : Nat) (h : weekday < 256) :
    arg1 (put2 day ++ put3 sod ++ put1 weekday) 5 = weekday := by
  simpa [put2, put3, put1] using h

theorem setTimeRule_waits (s : State) (day : BitVec 16) (sod : Fin 691200) (weekday : Fin 7) :
    setTimeRule (put2 day.toNat ++ put3 sod.val ++ put1 weekday.val) s = .wait (.setTime ⟨day, sod⟩ weekday) := by
  have hsod := sod.isLt
  have hweekday := weekday.isLt
  unfold setTimeRule
  rw [arg2_setTime _ _ _ day.isLt, arg3_setTime _ _ _ (by omega), arg1_setTime _ _ _ (by omega)]
  simp

theorem setTimeRule_refuses (s : State) (day : BitVec 16) {sod weekday : Nat} (hsod : sod < 16777216)
    (hweekday : weekday < 256) (h : 691200 ≤ sod ∨ 7 ≤ weekday) :
    setTimeRule (put2 day.toNat ++ put3 sod ++ put1 weekday) s = refuse s .range := by
  unfold setTimeRule
  rw [arg3_setTime _ _ _ hsod, arg1_setTime _ _ _ hweekday]
  rcases h with h | h
  · rw [finOf_eq_none.2 h]
  · rw [finOf_eq_none.2 h]
    cases finOf 691200 sod <;> rfl

theorem arg1_put1 {n : Nat} (h : n < 256) : arg1 (put1 n) 0 = n := by simpa [put1] using h

/-- The rule of CHANNEL_ON for a channel (R38). -/
theorem channelOnRule_channel (s : State) (c : Channel) :
    channelOnRule (put1 c.val) s =
      if (s.channel c).link = .off then .wait (.channelOn c)
      else .complete s .ok (put1 c.val ++ put1 (s.channel c).link.code) := by
  have hc := c.isLt
  unfold channelOnRule
  rw [arg1_put1 (by omega), finOf_val]
  simp [ChannelState.enabled, channelData]

/-- The rule of CHANNEL_OFF for a channel (R39). -/
theorem channelOffRule_channel (s : State) (c : Channel) :
    channelOffRule (put1 c.val) s =
      if (s.channel c).link = .off then .complete s .ok (put1 c.val ++ put1 (s.channel c).link.code)
      else .wait (.channelOff c) := by
  have hc := c.isLt
  unfold channelOffRule
  rw [arg1_put1 (by omega), finOf_val]
  simp [ChannelState.enabled, channelData]

/-- A byte above 7 names no channel. -/
theorem channelRules_refuse (s : State) {b : Byte} (h : 8 ≤ b.toNat) :
    channelOnRule [b] s = refuse s .range ∧ channelOffRule [b] s = refuse s .range := by
  have hb : finOf 8 b.toNat = none := finOf_eq_none.2 h
  simp [channelOnRule, channelOffRule, hb]

/-- Settles O12: each rule either waits, refuses, or answers a switch that would change nothing. -/
theorem timedCommandsWaitForTheBoundary : Obligations.TimedCommandsWaitForTheBoundary := by
  intro s h
  refine ⟨fun day sod weekday => ?_, fun day sod weekday hsod hweekday hbad => ?_, fun mask hmask => ?_, ?_, ?_,
    fun c => ⟨fun hoff => ⟨?_, ?_⟩, fun hon => ⟨?_, ?_⟩⟩, fun b hb => ⟨?_, ?_⟩⟩
  · exact authorityCommand_waits h rfl (by decide) (setTimeRule_waits _ day sod weekday)
  · exact authorityCommand_refused h rfl (by decide) (setTimeRule_refuses _ day hsod hweekday hbad)
  · exact authorityCommand_waits h rfl (by decide) (by rw [cutRule, argByte_zero, if_neg hmask])
  · exact authorityCommand_refused h rfl (by decide) (by simp [cutRule])
  · exact authorityCommand_waits h rfl (by decide) rfl
  · exact authorityCommand_waits h rfl (by decide) (by simp [channelOnRule_channel, hoff])
  · exact authorityCommand_answered h rfl (by decide)
      (by simp only [channelOffRule_channel, State.opened_channel, hoff, ↓reduceIte]; rfl) rfl
  · exact authorityCommand_waits h rfl (by decide) (by simp [channelOffRule_channel, hon])
  · exact authorityCommand_answered h rfl (by decide)
      (by simp only [channelOnRule_channel, State.opened_channel, hon, ↓reduceIte]; rfl) rfl
  · exact authorityCommand_refused h rfl (by decide) (channelRules_refuse _ hb).1
  · exact authorityCommand_refused h rfl (by decide) (channelRules_refuse _ hb).2

/-! ### SET_CALENDAR_SLOTS (R10) -/

/-- The codes of a train of class bytes are its low four bits, where each of them is a class. -/
theorem classCodes_eq_some {bs : List Byte} {cs : List ClassNo} :
    classCodes bs = some cs ↔ cs.map Fin.val = bs.map fun b => b.toNat % 16 := by
  induction bs generalizing cs with
  | nil => cases cs <;> simp [classCodes]
  | cons b bs ih =>
    unfold classCodes
    cases cs with
    | nil => split <;> simp
    | cons c cs =>
      rw [List.map_cons, List.map_cons, List.cons.injEq, ← ih, eq_comm (a := c.val), ← classCode_eq_some]
      cases classCode b <;> cases classCodes bs <;> simp

theorem classCodes_eq_none {bs : List Byte} : classCodes bs = none ↔ ∃ b ∈ bs, 12 ≤ b.toNat % 16 := by
  induction bs with
  | nil => simp [classCodes]
  | cons b bs ih =>
    rw [List.exists_mem_cons_iff, ← ih, ← classCode_eq_none, classCodes]
    cases classCode b <;> cases classCodes bs <;> simp

theorem length_of_classCodes {bs : List Byte} {cs : List ClassNo} (h : classCodes bs = some cs) :
    cs.length = bs.length := by
  simpa using congrArg List.length (classCodes_eq_some.1 h)

/-- The slots written take their codes, and every other slot stays (R10). -/
theorem writeSlots_get (v : Vector ClassNo 96) (first : Nat) (cs : List ClassNo) (i : Fin 96) :
    ((writeSlots v first cs).get i).val =
      if first ≤ i.val ∧ i.val < first + cs.length then (cs.map Fin.val).getD (i.val - first) 0
      else (v.get i).val := by
  induction cs generalizing v first with
  | nil =>
    rw [if_neg (by simp)]
    rfl
  | cons c cs ih =>
    rw [writeSlots, ih]
    have hi := i.isLt
    by_cases hfirst : first = i.val
    · subst hfirst
      rw [if_neg (by omega), if_pos (by simp)]
      simp [Vector.get_eq_getElem]
    · have hv : (if h : first < 96 then v.set first c h else v).get i = v.get i := by
        split
        · simp [Vector.get_eq_getElem, hfirst]
        · rfl
      rw [hv]
      by_cases hrange : first + 1 ≤ i.val ∧ i.val < first + 1 + cs.length
      · have hsub : i.val - first = i.val - (first + 1) + 1 := by omega
        rw [if_pos hrange, if_pos (by simp only [List.length_cons]; omega), hsub, List.map_cons, List.getD_cons_succ]
      · rw [if_neg hrange, if_neg (by simp only [List.length_cons]; omega)]

/-- A SET_CALENDAR_SLOTS whose frame is in order is answered by its rule. -/
theorem setCalendarSlots_framed {s : State} {codes : List Byte} (h : s.takes .authority = true)
    (hlen : codes.length ≤ 247) (profile first count : Byte) :
    exec (.setCalendarSlots .authority (framed ([profile, first, count] ++ codes))) s =
      .next ((s.opened .authority).takeAnswer .authority
        (setCalendarSlotsRule .authority ([profile, first, count] ++ codes) (s.opened .authority))) :=
  portCommand_framed h (by simp; omega) rfl (by simp [calendarSlotsCommand, ArgLength.fits])

/-- The rule on the bytes of its frame. -/
theorem setCalendarSlotsRule_eq (s : State) (profile first count : Byte) (codes : List Byte) :
    setCalendarSlotsRule .authority ([profile, first, count] ++ codes) s =
      if codes.length ≠ count.toNat then refuse s .format
      else
        match profileOf profile.toNat, classCodes codes with
        | some prof, some cs =>
          if 95 < first.toNat ∨ count.toNat = 0 ∨ 96 < count.toNat ∨ 96 < first.toNat + count.toNat then
            refuse s .range
          else storeSlots .authority prof first.toNat count.toNat cs s
        | _, _ => refuse s .range := by
  have hlen : ([profile, first, count] ++ codes).length ≠ 3 + count.toNat ↔ codes.length ≠ count.toNat := by
    simp only [List.length_append, List.length_cons, List.length_nil]
    omega
  simp only [setCalendarSlotsRule, arg1, List.cons_append, List.nil_append, argByte_zero, argByte_succ] at hlen ⊢
  simp only [hlen, List.drop_succ_cons, List.drop_zero] <;> rfl

theorem byte_eq_zero_iff {b : Byte} : b = 0 ↔ b.toNat = 0 := by
  rw [← BitVec.toNat_inj]
  rfl

/-- Settles O13: the rule checks the length, then its values, and then writes exactly the slots named. -/
theorem setCalendarSlotsWritesItsSlots : Obligations.SetCalendarSlotsWritesItsSlots := by
  intro s profile first count codes h hlen
  refine ⟨fun hcount => ?_, fun hcount hbad => ?_, fun prof hcount hprof hfirst hcount0 hend hcodes => ?_⟩
  · rw [setCalendarSlots_framed h hlen, setCalendarSlotsRule_eq, if_pos hcount, opened_takeAnswer_refuse]
  · rw [setCalendarSlots_framed h hlen, setCalendarSlotsRule_eq, if_neg (not_not.2 hcount),
      ← opened_takeAnswer_refuse]
    rw [byte_eq_zero_iff, ← profileOf_eq_none, ← classCodes_eq_none] at hbad
    cases hp : profileOf profile.toNat with
    | none => rfl
    | some prof =>
      cases hc : classCodes codes with
      | none => rfl
      | some cs =>
        simp only [hp, hc, reduceCtorEq, false_or, or_false] at hbad
        dsimp only
        rw [if_pos hbad]
  · have hp : profileOf profile.toNat = some prof := profileOf_eq_some.2 hprof
    have hpos : count.toNat ≠ 0 := fun h0 => hcount0 (byte_eq_zero_iff.2 h0)
    cases hc : classCodes codes with
    | none =>
      obtain ⟨b, hb, hge⟩ := classCodes_eq_none.1 hc
      exact absurd (hcodes b hb) (by omega)
    | some cs =>
      have hmap := classCodes_eq_some.1 hc
      have hcs := length_of_classCodes hc
      refine ⟨writeSlots (s.timebase.slots prof) first.toNat cs, cs.take 60, fun i => ?_, ?_, ?_⟩
      · rw [writeSlots_get, hcs, hcount, hmap]
        split
        · rename_i hi
          have hlt : i.val - first.toNat < codes.length := by omega
          simp [List.getD_eq_getElem?_getD, List.getElem?_eq_getElem hlt]
        · rfl
      · rw [List.map_take, hmap, List.map_take]
      · rw [setCalendarSlots_framed h hlen, setCalendarSlotsRule_eq, if_neg (not_not.2 hcount), hp, hc]
        dsimp only
        rw [if_neg (by omega)]
        refine congrArg _ (opened_takeAnswer_complete ?_ ?_)
        · cases prof <;> rfl
        · rw [← hprof]
          simp [put1]

/-! ### SET_CLASS and SET_DAY_RULES (R11, R17) -/

/-- The rule of SET_CLASS on the bytes of its frame. -/
theorem setClassRule_eq (s : State) (n minutes plant : Byte) (limit lmax peak : BitVec 16) :
    setClassRule .authority
        ([n] ++ put2 limit.toNat ++ [minutes] ++ put2 lmax.toNat ++ put2 peak.toNat ++ [plant]) s =
      match finOf 12 n.toNat, lengthOf minutes.toNat, boolOf plant.toNat with
      | some k, some length, some permitted =>
        let stored := storedClass limit.toNat length lmax.toNat peak.toNat permitted
        .complete
          (State.offerConfig
            { s with timebase := { s.timebase with classes := s.timebase.classes.set k.val stored k.isLt } }
            .authority (.cls k stored))
          .ok (putClass stored)
      | _, _, _ => refuse s .range := by
  have hlimit := arg2_append_put2 ([minutes] ++ put2 lmax.toNat ++ put2 peak.toNat ++ [plant]) _ limit.isLt
  have hlmax := arg2_append_put2 (put2 peak.toNat ++ [plant]) _ lmax.isLt
  have hpeak := arg2_append_put2 [plant] _ peak.isLt
  simp only [put2, arg2, arg1, List.cons_append, List.nil_append, argByte_zero, argByte_succ, Nat.zero_add] at *
  simp only [setClassRule, arg2, arg1, argByte_zero, argByte_succ, hlimit, hlmax, hpeak] <;> rfl

theorem storedClass_eq (limit : Nat) (length : IntervalLength) (lmax peak : Nat) (plant : Bool) :
    storedClass limit length lmax peak plant =
      ⟨max 200 (min 1400 limit), length, max 200 (min 1400 lmax), max 400 (min 1500 peak), plant⟩ := by
  simp only [storedClass, clamp_eq (show 200 ≤ 1400 by decide), clamp_eq (show 400 ≤ 1500 by decide)]

/-- Settles O14: the rule stores the clamped class, or refuses. -/
theorem setClassStoresClampedParameters : Obligations.SetClassStoresClampedParameters := by
  intro s n minutes plant limit lmax peak h
  refine ⟨fun k length permitted hn hminutes hplant => ?_, fun hbad => ?_⟩
  · refine authorityCommand_answered h rfl (by decide) ?_ rfl
    rw [setClassRule_eq, finOf_eq_some.2 hn, lengthOf_eq_some.2 hminutes, boolOf_eq_some.2 hplant]
    dsimp only
    rw [storedClass_eq]
    have hm : put1 length.minutes = [minutes] := by simp [put1, ← hminutes]
    have hp : put1 (boolCode permitted) = [plant] := by simp [put1, ← hplant]
    simp only [putClass, hm, hp]
    rfl
  · refine authorityCommand_refused h rfl (by decide) ?_
    rw [setClassRule_eq]
    rw [← finOf_eq_none, ← lengthOf_eq_none, ← boolOf_eq_none] at hbad
    rcases hbad with hb | hb | hb <;> rw [hb]
    · cases finOf 12 n.toNat <;> rfl
    · cases finOf 12 n.toNat <;> cases lengthOf minutes.toNat <;> rfl

/-- The rule of SET_DAY_RULES on the bytes of its frame. -/
theorem setDayRulesRule_eq (s : State) (mask fallback enable : Byte) :
    setDayRulesRule .authority [mask, fallback, enable] s =
      match classCode fallback, boolOf enable.toNat with
      | some k, some on =>
        if 128 ≤ mask.toNat then refuse s .range
        else
          .complete
            (State.offerConfig
              { s with timebase :=
                { s.timebase with restWeekdays := mask.setWidth 7, defaultClass := k, calendarEnable := on } }
              .authority (.dayRules (mask.setWidth 7) k on))
            .ok (put1 (mask.setWidth 7).toNat ++ put1 k.val ++ put1 (boolCode on))
      | _, _ => refuse s .range := by
  simp only [setDayRulesRule, arg1, argByte_zero, argByte_succ, BitVec.ofNat_toNat] <;> rfl

/-- Settles O15: the rule sets all three, or refuses. -/
theorem setDayRulesSetsAllThree : Obligations.SetDayRulesSetsAllThree := by
  intro s mask fallback enable h
  refine ⟨fun k on hmask hfallback henable => ?_, fun hbad => ?_⟩
  · refine authorityCommand_answered h rfl (by decide) ?_ rfl
    rw [setDayRulesRule_eq, classCode_eq_some.2 hfallback, boolOf_eq_some.2 henable]
    dsimp only
    rw [if_neg (by omega)]
    have hm : put1 (mask.setWidth 7).toNat = [mask] := by
      have hw : (mask.setWidth 7).toNat = mask.toNat := by
        rw [BitVec.toNat_setWidth]
        exact Nat.mod_eq_of_lt hmask
      simp [put1, hw]
    have he : put1 (boolCode on) = [enable] := by simp [put1, ← henable]
    rw [hm, he]
    rfl
  · refine authorityCommand_refused h rfl (by decide) ?_
    rw [setDayRulesRule_eq]
    rw [← classCode_eq_none, ← boolOf_eq_none] at hbad
    rcases hbad with hb | hb | hb
    · cases classCode fallback <;> cases boolOf enable.toNat <;> simp [hb]
    · rw [hb]
    · rw [hb]
      cases classCode fallback <;> rfl

/-! ### ADD_REST_DAY and DROP_REST_DAY (R13, R14) -/

theorem restDay_arg (day : BitVec 16) : BitVec.ofNat 16 (arg2 (put2 day.toNat) 0) = day := by
  have harg := arg2_append_put2 [] day.toNat day.isLt
  rw [List.append_nil] at harg
  rw [harg, BitVec.ofNat_toNat, BitVec.setWidth_eq]

/-- The rule of ADD_REST_DAY on the bytes of its frame: its checks in their order. -/
theorem addRestDayRule_eq (s : State) (day : BitVec 16) :
    addRestDayRule .authority (put2 day.toNat) s =
      if s.timebase.timeValid = false ∨ day < s.timebase.time.day then refuse s .range
      else if day ∈ s.timebase.restDays then refuse s .duplicate
      else if 16 ≤ s.timebase.restDays.length then refuse s .full
      else
        .complete
          (State.offerConfig { s with timebase := { s.timebase with restDays := insertDay day s.timebase.restDays } }
            .authority (.restDayAdd day (insertDay day s.timebase.restDays)))
          .ok (putRestDays (insertDay day s.timebase.restDays)) := by
  simp only [addRestDayRule, restDay_arg, List.contains_iff_mem, Config.restDayPlaces]
  by_cases hv : s.timebase.timeValid = false
  · simp [hv]
  · simp [hv]

/-- The rule of DROP_REST_DAY on the bytes of its frame. -/
theorem dropRestDayRule_eq (s : State) (day : BitVec 16) :
    dropRestDayRule .authority (put2 day.toNat) s =
      if day ∉ s.timebase.restDays then refuse s .absent
      else
        .complete
          (State.offerConfig
            { s with timebase := { s.timebase with restDays := s.timebase.restDays.filter fun d => d ≠ day } }
            .authority (.restDayDrop day (s.timebase.restDays.filter fun d => d ≠ day)))
          .ok (putRestDays (s.timebase.restDays.filter fun d => d ≠ day)) := by
  have hfilter : (s.timebase.restDays.filter fun d => d != day) = s.timebase.restDays.filter fun d => d ≠ day :=
    List.filter_congr fun d _ => by simp [bne, BEq.beq]
  simp only [dropRestDayRule, restDay_arg, hfilter]
  by_cases hd : day ∈ s.timebase.restDays <;> simp [hd]

/-- Settles O16: the checks stand in their order, and the list is the old one with the day put in or taken out. -/
theorem restDayCommandsKeepTheOrder : Obligations.RestDayCommandsKeepTheOrder := by
  intro s day h
  refine ⟨fun hbad => ?_, fun hv hle hmem => ?_, fun hv hle hnew hfull => ?_, fun hv hle hnew hroom => ?_,
    fun hnew => ?_, fun hmem => ?_⟩
  · refine authorityCommand_refused h rfl (by decide) ?_
    rw [addRestDayRule_eq, State.opened_timebase, if_pos hbad]
  · refine authorityCommand_refused h rfl (by decide) ?_
    rw [addRestDayRule_eq, State.opened_timebase, if_neg (by simp [hv, BitVec.not_lt.2 hle]), if_pos hmem]
  · refine authorityCommand_refused h rfl (by decide) ?_
    rw [addRestDayRule_eq, State.opened_timebase, if_neg (by simp [hv, BitVec.not_lt.2 hle]), if_neg hnew,
      if_pos hfull]
  · refine ⟨insertDay day s.timebase.restDays, insertDay_perm day _, fun hord => insertDay_pairwise hord hnew, ?_⟩
    refine authorityCommand_answered h rfl (by decide) ?_ rfl
    rw [addRestDayRule_eq, State.opened_timebase, if_neg (by simp [hv, BitVec.not_lt.2 hle]), if_neg hnew,
      if_neg (Nat.not_le.2 hroom)]
    rfl
  · refine authorityCommand_refused h rfl (by decide) ?_
    rw [dropRestDayRule_eq, State.opened_timebase, if_pos hnew]
  · refine authorityCommand_answered h rfl (by decide) ?_ rfl
    rw [dropRestDayRule_eq, State.opened_timebase, if_neg (not_not.2 hmem)]
    rfl

end Sys2Proof.Machine
end

section
/-! PROOFS. The pin reset, the slice clock, and site time at a boundary. -/

namespace Sys2Proof.Machine

/-! ### The pin reset (R1, R143, R183) -/

/-- A release of a low NRST gives the power-on state but for routes, lock, crystal and transactions (R148). -/
theorem exec_nrstRelease_low {s : State} (h : s.nrstLow = true) :
    exec .nrstRelease s = .next (pinResetState s) := by
  simp [exec, execNrstRelease, h]

/-- A fall of a high NRST. -/
theorem exec_nrstLow_high {s : State} (h : s.nrstLow = false) : exec .nrstLow s = .next (nrstLowState s) := by
  simp [exec, execNrstLow, h]

/-- Every line that the part drives is low while NRST is (R143, R177, R192). -/
theorem lines_low {s : State} (h : s.nrstLow = true) :
    s.outs = 0 ∧ ∀ p, s.ready p = false ∧ s.attn p = false :=
  ⟨eq_zero_iff_no_member.2 fun l => by simp [State.outs, State.out, h], fun p => by simp [State.ready, State.attn, h]⟩

/-- Settles O34: the fall discards, and the release resets from wherever the low NRST left the state. -/
theorem pinResetDiscardsOpenWork : Obligations.PinResetDiscardsOpenWork := by
  refine ⟨fun s h => ⟨_, _, exec_nrstRelease_low h, rfl, rfl, fun p => by cases p <;> rfl, rfl⟩, fun s h => ?_⟩
  obtain ⟨hout, hlines⟩ := lines_low (s := nrstLowState s) rfl
  refine ⟨_, _, _, exec_nrstLow_high h, exec_nrstRelease_low rfl, rfl, rfl, hout, fun p => ?_, fun p => ?_, rfl, rfl, rfl,
    rfl, fun c => ?_, rfl⟩
  · exact ⟨(hlines p).1, (hlines p).2, by cases p <;> rfl⟩
  · cases p <;> rfl
  · simp [nrstLowState, State.channel, ChannelState.abandoned]

/-! ### The slice clock (R1) -/

theorem State.clockRuns_iff {s : State} : s.clockRuns = true ↔ s.crystalRunning = true ∧ s.nrstLow = false := by
  simp [State.clockRuns]

/-- A clock that stands still reaches no boundary. -/
theorem exec_boundary_still {s : State} (heard : List Byte) (h : s.clockRuns = false) :
    exec (.boundary heard) s = .next s := by
  simp [exec, execBoundary, reachBoundary, h]

/-- Where no slice has ended, a frame goes on in reception and no channel changes (R22). -/
theorem frameAtBoundary_channel_first {s : State} (heard : List Byte) (h : s.timebase.slice = none) (c : Channel) :
    (frameAtBoundary heard s).channel c = s.channel c := by
  unfold frameAtBoundary
  rw [h]
  split <;> rfl

/-- Without a slice before the one that ends there is no deadline (R24). -/
theorem deadline_none {s : State} (h : s.timebase.lastSlice = none) (c : Channel) :
    deadline s c = ChannelWork.start (s.channel c) := by
  unfold deadline
  rw [h]

theorem ChannelWork.start_records (ch : ChannelState) : (ChannelWork.start ch).records = [] := rfl

/-- No SYNC is sent where no slice has ended (R23). -/
theorem HeadLink.atBoundary_none (h : HeadLink) (timed : Option Timed) :
    (h.atBoundary none timed).syncTag = h.syncTag ∧ (h.atBoundary none timed).driverOn = h.driverOn := by
  unfold HeadLink.atBoundary HeadLink.sync
  split <;> exact ⟨rfl, rfl⟩

/-- The first boundary with nothing pending offers nothing (R24, R98). -/
theorem batch_first {s : State} (hslice : s.timebase.slice = none) (hlast : s.timebase.lastSlice = none) (now : Time) :
    batch s none now = [] := by
  have hwork : ∀ c, channelWork s none c = ChannelWork.start (s.channel c) := deadline_none hlast
  refine List.eq_nil_iff_forall_not_mem.2 fun o ho => ?_
  rcases mem_batch.1 ho with ⟨c, hc⟩ | hep | ⟨t, ht, -⟩
  · rw [hwork, ChannelWork.start_records] at hc
    exact List.not_mem_nil hc
  · rw [hslice] at hep
    exact nomatch (show none = some o from hep)
  · cases ht

/-- The timebase after the first boundary that is no time step: the slice held starts, and the slot class is read where
it is the first of its slot (R1, R6). -/
theorem Timebase.atBoundary_first {tb : Timebase} {timed : Option Timed} (hslice : tb.slice = none)
    (hlast : tb.lastSlice = none) (h : ∀ time weekday, timed ≠ some (.setTime time weekday)) :
    tb.atBoundary timed =
      { tb with slice := some tb.slotStart.newTag, slotClass := tb.slotStart.slotClass } := by
  unfold Timebase.atBoundary
  rw [tb.toNextSlice_advance h]
  rcases tb.slotStart_cases with ⟨-, hs⟩ | ⟨-, hs⟩ <;> simp [hslice, hlast, hs, Timebase.beginSlice]

/-- The read of the slot class leaves everything else. -/
theorem Timebase.slotStart_eq (tb : Timebase) : tb.slotStart = { tb with slotClass := tb.slotStart.slotClass } := by
  rcases tb.slotStart_cases with ⟨-, hs⟩ | ⟨-, hs⟩ <;> rw [hs]

/-- The class of a slot is read at its first slice, and else kept (R6). -/
theorem Timebase.slotStart_slotClass (tb : Timebase) :
    (tb.time.sod.val % 7200 = 0 → tb.slotStart.slotClass = (tb.slots tb.profile).get (slotOf tb.time)) ∧
      (tb.time.sod.val % 7200 ≠ 0 → tb.slotStart.slotClass = tb.slotClass) := by
  rcases tb.slotStart_cases with ⟨h, hs⟩ | ⟨h, hs⟩ <;> rw [hs]
  · exact ⟨fun _ => rfl, fun hne => absurd h hne⟩
  · exact ⟨fun he => absurd he h, fun _ => rfl⟩

/-- Settles O35: the boundary of a running clock with no slice in progress, part by part. -/
theorem sliceClockRunsOnTheCrystal : Obligations.SliceClockRunsOnTheCrystal := by
  refine ⟨fun s => rfl, fun s heard h => ?_, fun s heard hcrystal hnrst hslice => ?_,
    fun s heard hcrystal hnrst hslice hlast htimed => ?_⟩
  · apply exec_boundary_still
    rcases h with h | h <;> simp [State.clockRuns, h]
  · refine ⟨_, exec_boundary heard (State.clockRuns_iff.2 ⟨hcrystal, hnrst⟩), ?_, ?_, fun l => ?_⟩
    · rw [boundaryWork_headLink, frameAtBoundary_timebase, hslice, (HeadLink.atBoundary_none _ _).1,
        frameAtBoundary_headLink_syncTag]
    · rw [boundaryWork_headLink, frameAtBoundary_timebase, hslice, (HeadLink.atBoundary_none _ _).2,
        frameAtBoundary_headLink_driverOn]
    · rw [boundaryWork_activity, frameAtBoundary_timebase, hslice, Activity.atBoundary_none]
      simp
  · obtain ⟨hread, hkept⟩ := s.timebase.slotStart_slotClass
    refine ⟨_, s.timebase.slotStart.newTag, s.timebase.slotStart.slotClass,
      exec_boundary heard (State.clockRuns_iff.2 ⟨hcrystal, hnrst⟩), ?_, ?_, hread, hkept,
      fun hnone => ⟨fun c => ?_, ?_, ?_⟩⟩
    · change s.timebase.slotStart.time = _
      rw [s.timebase.slotStart_eq]
    · rw [boundaryWork_timebase, frameAtBoundary_timebase, frameAtBoundary_pendingTimed,
        Timebase.atBoundary_first hslice hlast htimed]
    · rw [boundaryWork_channel, frameAtBoundary_pendingTimed, hnone]
      change (deadline (frameAtBoundary heard s) c).ch = _
      rw [deadline_none (by simpa using hlast), frameAtBoundary_channel_first heard hslice]
      rfl
    · rw [boundaryWork_log, frameAtBoundary_log, frameAtBoundary_pendingTimed, hnone,
        batch_first (by simpa using hslice) (by simpa using hlast), Log.takeAll_nil]
    · rw [boundaryWork_activity, frameAtBoundary_timebase, frameAtBoundary_activity, frameAtBoundary_pendingTimed,
        hnone, hslice]
      rfl

/-! ### Site time at a boundary (R3 to R8) -/

/-- The advance of site time leaves the settings of the calendar. -/
theorem Timebase.advance_frame (tb : Timebase) :
    tb.advance.timeValid = tb.timeValid ∧ tb.advance.slotClass = tb.slotClass ∧ tb.advance.slots = tb.slots := by
  rcases tb.advance_cases with ⟨_, ha⟩ | ⟨-, -, ha, -⟩ | ⟨-, -, ha, -⟩ <;> rw [ha] <;> exact ⟨rfl, rfl, rfl⟩

/-- At a boundary that ends a slice and is no time step, the timebase is the advanced one with the slot class read where
the new slice is the first of its slot (R3, R6). -/
theorem Timebase.atBoundary_advance {tb : Timebase} {timed : Option Timed} (hslice : tb.slice ≠ none)
    (h : ∀ time weekday, timed ≠ some (.setTime time weekday)) :
    tb.atBoundary timed =
      { tb.advance with
        slotClass := tb.advance.slotStart.slotClass
        slice := (tb.atBoundary timed).slice
        lastSlice := (tb.atBoundary timed).lastSlice } := by
  have hnext : tb.toNextSlice timed = tb.advance.slotStart := by
    rw [tb.toNextSlice_advance h, if_pos (Option.isSome_iff_ne_none.2 hslice)]
  unfold Timebase.atBoundary Timebase.beginSlice
  rw [hnext, tb.advance.slotStart_eq]

/-- Settles O39: the boundary's timebase is the advanced one, in each case of the advance. -/
theorem siteTimeAdvancesBySlices : Obligations.SiteTimeAdvancesBySlices := by
  intro s heard hclock hslice htimed
  have htb : (boundaryWork (frameAtBoundary heard s)).timebase = s.timebase.atBoundary s.pendingTimed := by simp
  obtain ⟨hvalid, hclass, hslots⟩ := s.timebase.advance_frame
  obtain ⟨hread, hkept⟩ := s.timebase.advance.slotStart_slotClass
  rw [hslots] at hread
  rw [hclass] at hkept
  refine ⟨_, exec_boundary heard hclock, ?_⟩
  rw [htb, Timebase.atBoundary_advance hslice htimed]
  refine ⟨hvalid, fun hsod => ?_, fun hsod hday => ?_, fun hsod hday => ?_, hread, hkept⟩
  · rcases s.timebase.advance_cases with ⟨_, ha⟩ | ⟨hlast, -⟩ | ⟨hlast, -⟩
    · rw [ha]
      exact ⟨rfl, rfl, rfl, rfl, rfl⟩
    · omega
    · omega
  · rcases s.timebase.advance_cases with ⟨hlt, -⟩ | ⟨-, -, ha, hprofile⟩ | ⟨-, hwrap, -⟩
    · omega
    · refine ⟨?_, ?_, ?_, hprofile⟩ <;> rw [ha]
      rfl
    · exact absurd hwrap hday
  · rcases s.timebase.advance_cases with ⟨hlt, -⟩ | ⟨-, hnot, -⟩ | ⟨-, -, ha, hprofile⟩
    · omega
    · exact absurd hday hnot
    · refine ⟨?_, ?_, ?_, hprofile⟩ <;> rw [ha]
      simp [Fin.val_add]

/-! ### Tags (R5, R7, R20) -/

/-- Settles O41: the new tag is formed from the timebase that the boundary leaves. -/
theorem tagsCarryTheCalendar : Obligations.TagsCarryTheCalendar := by
  intro s heard hclock
  have htb : (boundaryWork (frameAtBoundary heard s)).timebase = s.timebase.atBoundary s.pendingTimed := by simp
  have hframe := s.timebase.toNextSlice_frame s.pendingTimed
  have hclasses : (s.timebase.toNextSlice s.pendingTimed).classes = s.timebase.classes := by rw [hframe]
  have hslice : (s.timebase.toNextSlice s.pendingTimed).slice = s.timebase.slice := by rw [hframe]
  have hclass : (s.timebase.toNextSlice s.pendingTimed).tagClass =
      if (s.timebase.toNextSlice s.pendingTimed).timeValid && s.timebase.calendarEnable then
        (s.timebase.toNextSlice s.pendingTimed).slotClass
      else s.timebase.defaultClass := by
    unfold Timebase.tagClass
    rw [hframe]
  refine ⟨_, (s.timebase.toNextSlice s.pendingTimed).newTag, exec_boundary heard hclock, ?_⟩
  rw [htb]
  refine ⟨rfl, rfl, rfl, rfl, fun hvalid => ?_, fun hinvalid => ?_, ?_, ?_, fun ended hended => ?_⟩
  · obtain ⟨hv, he⟩ := hvalid
    change (s.timebase.toNextSlice s.pendingTimed).timeValid = true at hv
    exact hclass.trans (by rw [hv, he]; rfl)
  · change (s.timebase.toNextSlice s.pendingTimed).timeValid = false ∨ _ at hinvalid
    refine hclass.trans (if_neg ?_)
    rcases hinvalid with hv | he
    · simp [hv]
    · simp [he]
  · change ((s.timebase.toNextSlice s.pendingTimed).classes.get _).plant = _
    rw [hclasses]
    rfl
  · change ((s.timebase.toNextSlice s.pendingTimed).slice.map _).map EndedSlice.tag = _
    rw [hslice, Option.map_map]
    exact Option.map_id'
  · change (s.timebase.toNextSlice s.pendingTimed).slice.map _ = some ended at hended
    obtain ⟨tag, -, rfl⟩ := Option.map_eq_some_iff.1 hended
    exact isTimeStep_eq_true

end Sys2Proof.Machine
end

section
/-! PROOFS. The deadline of a boundary, time steps, and the boundaries that the table names by their event. -/

namespace Sys2Proof.Machine

/-! ### Findings (R32) -/

/-- The finding of a report that is neither FAULT nor CAL is a level (R32). -/
theorem interpret_plain {r : Report} (h3 : r.flags.getLsbD 3 = false) (h2 : r.flags.getLsbD 2 = false) :
    interpret (some r) =
      if r.flags.getLsbD 0 = true ∨ 1400 < r.level.toNat then .level 1400 (max 400 (min 1500 r.peak.toNat)) true
      else
        .level (if r.flags.getLsbD 1 = true ∨ r.level.toNat < 200 then 200 else r.level.toNat)
          (max 400 (min 1500 r.peak.toNat)) false := by
  simp only [interpret, h3, h2, Bool.false_eq_true, ↓reduceIte, clamp_eq (show 400 ≤ 1500 by decide)]
  by_cases h0 : r.flags.getLsbD 0 = true
  · simp only [h0, true_or, ↓reduceIte]
  · by_cases hhi : 1400 < r.level.toNat
    · simp only [h0, hhi, or_true, Bool.false_eq_true, ↓reduceIte]
    · by_cases h1 : r.flags.getLsbD 1 = true
      · simp only [h0, hhi, h1, or_self, true_or, Bool.false_eq_true, ↓reduceIte]
      · by_cases hlo : r.level.toNat < 200 <;>
          simp only [h0, hhi, h1, hlo, or_self, or_true, Bool.false_eq_true, ↓reduceIte]

/-- Every finding, by the interpretation table (R32). -/
theorem interpret_table (held : Option Report) :
    (held = none → interpret held = .missing) ∧
      ∀ r, held = some r →
        (r.flags.getLsbD 3 = true → interpret held = .missing) ∧
        (r.flags.getLsbD 3 = false → r.flags.getLsbD 2 = true → interpret held = .cal) ∧
        (r.flags.getLsbD 3 = false → r.flags.getLsbD 2 = false →
          ∃ (l : Nat) (overload : Bool), interpret held = .level l (max 400 (min 1500 r.peak.toNat)) overload ∧
            (overload = true ↔ r.flags.getLsbD 0 = true ∨ 1400 < r.level.toNat) ∧
            (overload = true → l = 1400) ∧
            (overload = false →
              l = if r.flags.getLsbD 1 = true ∨ r.level.toNat < 200 then 200 else r.level.toNat) ∧
            200 ≤ l ∧ l ≤ 1400) := by
  refine ⟨fun h => h ▸ rfl, ?_⟩
  rintro r rfl
  refine ⟨fun h3 => ?_, fun h3 h2 => ?_, fun h3 h2 => ?_⟩
  · simp only [interpret, h3, ↓reduceIte]
  · simp only [interpret, h3, h2, Bool.false_eq_true, ↓reduceIte]
  · have hplain := interpret_plain h3 h2
    by_cases hover : r.flags.getLsbD 0 = true ∨ 1400 < r.level.toNat
    · rw [if_pos hover] at hplain
      exact ⟨_, _, hplain, by simpa using hover, fun _ => rfl, nofun, by decide, by decide⟩
    · rw [if_neg hover] at hplain
      obtain ⟨hlo, hhi, -, -⟩ := interpret_level hplain
      exact ⟨_, _, hplain, by simpa using hover, nofun, fun _ => rfl, hlo, hhi⟩

/-! ### The deadline of a channel (R34 to R37) -/

theorem SliceResult.valid_iff {r : SliceResult} : r.valid = true ↔ r ≠ .missing := by
  cases r <;> simp [SliceResult.valid]

/-- The channel as the deadline's link work leaves it, where it is not OFF: the link moved, the held report dropped
(R32 to R36). -/
def ChannelState.moved (ch : ChannelState) (lossCount : Nat) : ChannelState :=
  { ch.withLink (linkDeadline lossCount ch.linkOf (interpret ch.held)).1 with held := none }

theorem deadlineLink_moved {lossCount : Nat} {ch : ChannelState} (h : ch.link ≠ .off) :
    ∃ r, (linkDeadline lossCount ch.linkOf (interpret ch.held)).2 = some r ∧
      deadlineLink lossCount ch = (ch.moved lossCount, some r) := by
  rcases deadlineLink_cases lossCount ch with ⟨hoff, -⟩ | ⟨r, -, hr, hd⟩
  · exact absurd hoff h
  · exact ⟨r, hr, hd⟩

theorem deadlineLink_of_off {lossCount : Nat} {ch : ChannelState} (h : ch.link = .off) :
    deadlineLink lossCount ch = (ch, none) := by
  rcases deadlineLink_cases lossCount ch with ⟨-, hd⟩ | ⟨_, hon, -⟩
  · exact hd
  · exact absurd h hon

/-- Link state, acquire and miss count after a deadline, row by row of the List of Link State Transitions (R34 to
R36). -/
theorem ChannelState.moved_table (ch : ChannelState) (lossCount : Nat) :
    (ch.link = .search → interpret ch.held = .missing → (ch.moved lossCount).linkOf = ⟨.search, 0, ch.miss⟩) ∧
      (ch.link = .search → interpret ch.held ≠ .missing → ch.acquire = 2 →
        (ch.moved lossCount).linkOf = ⟨.live, 0, 0⟩) ∧
      (ch.link = .search → interpret ch.held ≠ .missing → ch.acquire ≠ 2 →
        (ch.moved lossCount).linkOf = ⟨.search, ch.acquire + 1, ch.miss⟩) ∧
      (ch.link = .live → interpret ch.held ≠ .missing → (ch.moved lossCount).linkOf = ⟨.live, ch.acquire, 0⟩) ∧
      (ch.link = .live → interpret ch.held = .missing → lossCount ≤ ch.miss + 1 →
        (ch.moved lossCount).linkOf = ⟨.lost, ch.acquire, 0⟩) ∧
      (ch.link = .live → interpret ch.held = .missing → ch.miss + 1 < lossCount →
        (ch.moved lossCount).linkOf = ⟨.live, ch.acquire, ch.miss + 1⟩) ∧
      (ch.link = .lost → interpret ch.held ≠ .missing → (ch.moved lossCount).linkOf = ⟨.search, 1, ch.miss⟩) ∧
      (ch.link = .lost → interpret ch.held = .missing → (ch.moved lossCount).linkOf = ⟨.lost, ch.acquire, ch.miss⟩) := by
  have hmoved : (ch.moved lossCount).linkOf = (linkDeadline lossCount ch.linkOf (interpret ch.held)).1 := rfl
  have hvalid : interpret ch.held ≠ .missing → (interpret ch.held).valid = true := SliceResult.valid_iff.2
  have hinvalid : interpret ch.held = .missing → (interpret ch.held).valid = false := fun h => by rw [h]; rfl
  rw [hmoved]
  refine ⟨fun hl hf => ?_, fun hl hf ha => ?_, fun hl hf ha => ?_, fun hl hf => ?_, fun hl hf hm => ?_,
    fun hl hf hm => ?_, fun hl hf => ?_, fun hl hf => ?_⟩
  · simp [linkDeadline, searchDeadline, ChannelState.linkOf, hl, hinvalid hf]
  · simp [linkDeadline, searchDeadline, ChannelState.linkOf, hl, hvalid hf, ha]
  · simp [linkDeadline, searchDeadline, ChannelState.linkOf, hl, hvalid hf, ha]
  · simp [linkDeadline, liveDeadline, ChannelState.linkOf, hl, hvalid hf]
  · simp [linkDeadline, liveDeadline, ChannelState.linkOf, hl, hinvalid hf, hm]
  · simp [linkDeadline, liveDeadline, ChannelState.linkOf, hl, hinvalid hf, Nat.not_le.2 hm]
  · simp [linkDeadline, lostDeadline, ChannelState.linkOf, hl, hvalid hf]
  · simp [linkDeadline, lostDeadline, ChannelState.linkOf, hl, hinvalid hf]

theorem SliceResult.eq_missing_of_invalid {r : SliceResult} (h : ¬r.valid = true) : r = .missing :=
  not_not.1 fun hne => h (SliceResult.valid_iff.2 hne)

/-- In SEARCH the finding is handed on only where it completes the acquisition (R34). -/
theorem searchDeadline_result (l : Link) (finding : SliceResult) :
    (searchDeadline l finding).2 = if l.acquire = 2 then finding else .missing := by
  unfold searchDeadline
  by_cases hv : finding.valid = true
  · by_cases ha : l.acquire = 2 <;> simp [hv, ha]
  · rw [if_neg hv, SliceResult.eq_missing_of_invalid hv, ite_self]

/-- In LIVE the finding is handed on (R35, R37). -/
theorem liveDeadline_result (lossCount : Nat) (l : Link) (finding : SliceResult) :
    (liveDeadline lossCount l finding).2 = finding := by
  unfold liveDeadline
  by_cases hv : finding.valid = true
  · simp [hv]
  · rw [if_neg hv, SliceResult.eq_missing_of_invalid hv]
    split <;> rfl

/-- In LOST every slice is MISSING (R36, R37). -/
theorem lostDeadline_result (l : Link) (finding : SliceResult) : (lostDeadline l finding).2 = .missing := by
  unfold lostDeadline
  split <;> rfl

/-- The slice result that a deadline hands on: the finding in LIVE and at the completion of an acquisition, else MISSING
(R37). -/
theorem linkDeadline_result {lossCount : Nat} {ch : ChannelState} {r : SliceResult}
    (h : (linkDeadline lossCount ch.linkOf (interpret ch.held)).2 = some r) :
    (ch.link = .live ∨ (ch.link = .search ∧ ch.acquire = 2) → r = interpret ch.held) ∧
      (ch.link = .lost ∨ (ch.link = .search ∧ ch.acquire ≠ 2) → r = .missing) := by
  unfold linkDeadline at h
  cases hl : ch.link with
  | off => simp [ChannelState.linkOf, hl] at h
  | search =>
    simp only [ChannelState.linkOf, hl, Option.some.injEq, searchDeadline_result] at h
    subst h
    by_cases ha : ch.acquire = 2 <;> simp [ha]
  | live =>
    simp only [ChannelState.linkOf, hl, Option.some.injEq, liveDeadline_result] at h
    simp [h]
  | lost =>
    simp only [ChannelState.linkOf, hl, Option.some.injEq, lostDeadline_result] at h
    simp [h]

/-- What the deadline of a slice does to a channel: nothing to one that is OFF; on any other the link moves, and the
result is accounted unless the slice is voided (R20, R37, R68). -/
theorem deadline_of_lastSlice {s : State} {c : Channel} {ended : EndedSlice} (he : s.timebase.lastSlice = some ended) :
    ((s.channel c).link = .off → deadline s c = ChannelWork.start (s.channel c)) ∧
      ((s.channel c).link ≠ .off → ended.voided = true →
        deadline s c = ChannelWork.start ((s.channel c).moved s.settings.lossCount)) ∧
      ((s.channel c).link ≠ .off → ended.voided = false → ∀ r,
        (deadlineLink s.settings.lossCount (s.channel c)).2 = some r →
          deadline s c =
            account (s.sliceContext ended.tag) c
              { (s.channel c).moved s.settings.lossCount with lastResult := some r.kept } r) := by
  refine ⟨fun hoff => ?_, fun hon hv => ?_, fun hon hv r hr => ?_⟩
  · obtain ⟨ch, hd, hch⟩ := deadline_start (s := s) (c := c) fun _ _ _ => by rw [deadlineLink_of_off hoff]
    rw [deadlineLink_of_off hoff, or_self] at hch
    rw [hd, hch]
  · obtain ⟨r, -, hd⟩ := deadlineLink_moved (lossCount := s.settings.lossCount) hon
    unfold deadline
    rw [he]
    simp [hd, hv]
  · obtain ⟨_, -, hd⟩ := deadlineLink_moved (lossCount := s.settings.lossCount) hon
    rw [deadline_account he hv hr, hd]

/-- With nothing pending a channel's whole work is its deadline. -/
theorem channelWork_none (s : State) (c : Channel) : channelWork s none c = deadline s c := rfl

/-- With nothing pending a boundary leaves a channel as its deadline does. -/
theorem boundary_channel {s : State} (heard : List Byte) (c : Channel) (h : s.pendingTimed = none) :
    (boundaryWork (frameAtBoundary heard s)).channel c = (deadline (frameAtBoundary heard s) c).ch := by
  rw [boundaryWork_channel, frameAtBoundary_pendingTimed, h, channelWork_none]

/-- A boundary with nothing pending whose deadline leaves no record of a channel offers none of it (R20, R37). -/
theorem batch_no_channel {heard : List Byte} {s : State} {c : Channel} {now : Time}
    (h : (deadline (frameAtBoundary heard s) c).records = []) :
    ∀ o ∈ batch (frameAtBoundary heard s) none now, o.channel ≠ some c := by
  intro o ho hc
  rcases mem_batch.1 ho with ⟨d, hd⟩ | hep | ⟨t, ht, -⟩
  · have hchannel : o.channel = some d := by
      obtain ⟨hgap, hevent, hnatural, hforced⟩ := channelWork_records heard s none d
      rcases ChannelWork.mem_records.1 hd with hr | hr | hr | hr
      · exact (hgap o hr).1
      · exact (hevent o hr).1
      · exact (hnatural o hr).1
      · exact (hforced o hr).1
    rw [hc, Option.some.injEq] at hchannel
    subst hchannel
    rw [channelWork_none, h] at hd
    exact List.not_mem_nil hd
  · rw [(Activity.atBoundary_offer hep).1] at hc
    cases hc
  · cases ht

/-- The link side of a channel after the deadline of a slice, where it is not OFF. -/
theorem deadline_moved {s : State} {c : Channel} {ended : EndedSlice} (he : s.timebase.lastSlice = some ended)
    (hon : (s.channel c).link ≠ .off) :
    (deadline s c).ch.linkOf = ((s.channel c).moved s.settings.lossCount).linkOf ∧ (deadline s c).ch.held = none := by
  obtain ⟨-, hvoided, haccount⟩ := deadline_of_lastSlice (c := c) he
  cases hv : ended.voided with
  | true =>
    rw [hvoided hon hv]
    exact ⟨rfl, rfl⟩
  | false =>
    obtain ⟨r, -, hd⟩ := deadlineLink_moved (lossCount := s.settings.lossCount) hon
    rw [haccount hon hv r (by rw [hd]), account_frame]
    exact ⟨rfl, rfl⟩

theorem ChannelState.linkOf_eq {ch : ChannelState} {link : LinkState} {acquire miss : Nat}
    (h : ch.linkOf = ⟨link, acquire, miss⟩) : ch.link = link ∧ ch.acquire = acquire ∧ ch.miss = miss := by
  simpa [ChannelState.linkOf] using h

/-- No result is handed on of a voided slice. -/
theorem handedOn_voided {s : State} {heard : List Byte} {c : Channel} {ended : EndedSlice}
    (he : s.timebase.lastSlice = some ended) (hv : ended.voided = true) : s.handedOn heard c = none := by
  simp [State.handedOn, he, hv]

/-- The result that the deadline of a slice that is not voided hands on. -/
theorem handedOn_kept {s : State} {heard : List Byte} {c : Channel} {ended : EndedSlice}
    (he : s.timebase.lastSlice = some ended) (hv : ended.voided = false) :
    s.handedOn heard c = (deadlineLink s.settings.lossCount ((frameAtBoundary heard s).channel c)).2 := by
  simp [State.handedOn, he, hv]

/-- Settles O38: the interpretation table, the boundary without a deadline, and the deadline of a slice row by row. -/
theorem linkStatesMoveAtTheDeadline : Obligations.LinkStatesMoveAtTheDeadline := by
  refine ⟨interpret_table, fun s heard c hclock hnone hlast => ⟨by simp [State.handedOn, hlast], ?_⟩, ?_⟩
  · have hstart := deadline_none (s := frameAtBoundary heard s) (by simpa using hlast) c
    refine ⟨_, _, exec_boundary heard hclock, ?_, boundaryWork_batch heard s, ?_⟩
    · rw [boundary_channel heard c hnone, hstart]
      rfl
    · rw [hnone]
      exact batch_no_channel (by rw [hstart, ChannelWork.start_records])
  · rintro s heard c ended ch finding hclock hnone hlast rfl rfl
    have he : (frameAtBoundary heard s).timebase.lastSlice = some ended := by simpa using hlast
    obtain ⟨hoff, hvoided, haccount⟩ := deadline_of_lastSlice (c := c) he
    obtain ⟨hlate, hdup⟩ := deadline_counts heard s c
    obtain ⟨t1, t2, t3, t4, t5, t6, t7, t8⟩ :=
      ((frameAtBoundary heard s).channel c).moved_table s.settings.lossCount
    rw [frameAtBoundary_settings] at hvoided haccount
    have hlink : ∀ {link acquire miss}, ((frameAtBoundary heard s).channel c).link ≠ .off →
        (((frameAtBoundary heard s).channel c).moved s.settings.lossCount).linkOf = ⟨link, acquire, miss⟩ →
          (deadline (frameAtBoundary heard s) c).ch.link = link ∧
            (deadline (frameAtBoundary heard s) c).ch.acquire = acquire ∧
            (deadline (frameAtBoundary heard s) c).ch.miss = miss := fun hon hm => by
      have hd := (deadline_moved he hon).1
      rw [frameAtBoundary_settings, hm] at hd
      exact ChannelState.linkOf_eq hd
    refine ⟨_, _, _, exec_boundary heard hclock, boundary_channel heard c hnone, boundaryWork_batch heard s, hlate, hdup,
      fun hl => ⟨?_, ?_, ?_⟩, fun hon => (deadline_moved he hon).2,
      fun hl hf => hlink (by simp [hl]) (t1 hl hf), fun hl hf ha => hlink (by simp [hl]) (t2 hl hf ha),
      fun hl hf ha => hlink (by simp [hl]) (t3 hl hf ha), fun hl hf => hlink (by simp [hl]) (t4 hl hf),
      fun hl hf hm => hlink (by simp [hl]) (t5 hl hf hm), fun hl hf hm => hlink (by simp [hl]) (t6 hl hf hm),
      fun hl hf => hlink (by simp [hl]) (t7 hl hf), fun hl hf => hlink (by simp [hl]) (t8 hl hf),
      fun hv => ⟨handedOn_voided hlast hv, ?_⟩, fun hv hon => ?_⟩
    · rw [hoff hl]
      rfl
    · rw [State.handedOn, hlast, deadlineLink_of_off hl]
      simp
    · rw [hnone]
      exact batch_no_channel (by rw [hoff hl, ChannelWork.start_records])
    · rw [hnone]
      by_cases hl : ((frameAtBoundary heard s).channel c).link = .off
      · refine ⟨?_, ?_, ?_, ?_, ?_, ?_, batch_no_channel ?_⟩ <;> rw [hoff hl] <;> rfl
      · refine ⟨?_, ?_, ?_, ?_, ?_, ?_, batch_no_channel ?_⟩ <;> rw [hvoided hl hv] <;> rfl
    · obtain ⟨r, hr, hd⟩ := deadlineLink_moved (lossCount := s.settings.lossCount) hon
      obtain ⟨hfinding, hmissing⟩ := linkDeadline_result hr
      refine ⟨r, by rw [handedOn_kept hlast hv, hd], ?_, hfinding, hmissing⟩
      rw [haccount hon hv r (by rw [hd]), account_frame]

end Sys2Proof.Machine
end

section
/-! PROOFS. Time steps, and the boundaries that the table names by their event. -/

namespace Sys2Proof.Machine

/-! ### Time steps (R19, R20) -/

/-- The timebase after the boundary of a time step (R19, R20). -/
theorem Timebase.atBoundary_timeStep (tb : Timebase) (time : Time) (weekday : Fin 7) :
    tb.atBoundary (some (.setTime time weekday)) =
      { tb with
        time := time
        timeValid := true
        weekdayOffset := offsetFor weekday time.day
        restDays := pruneRestDays time.day tb.restDays
        profile := (tb.atBoundary (some (.setTime time weekday))).profile
        slotClass := (tb.slots (tb.atBoundary (some (.setTime time weekday))).profile).get (slotOf time)
        slice := (tb.atBoundary (some (.setTime time weekday))).slice
        lastSlice := tb.slice.map fun ended => ⟨ended, true⟩ } := rfl

/-- The profile chosen at a time step (R8, R19). -/
theorem Timebase.atBoundary_timeStep_profile (tb : Timebase) (time : Time) (weekday : Fin 7) :
    (tb.atBoundary (some (.setTime time weekday))).profile = .rest ↔
      time.day ∈ tb.restDays ∨ tb.restWeekdays.getLsbD weekday.val = true := by
  have hchosen := Timebase.chosenProfile_eq_rest
    { tb with
      time := time
      timeValid := true
      weekdayOffset := offsetFor weekday time.day
      restDays := pruneRestDays time.day tb.restDays } time.day
  rw [offsetFor_weekday, mem_pruneRestDays, and_iff_left (BitVec.le_refl _)] at hchosen
  exact hchosen

/-- The records of a channel that the boundary of a time step offers: those of its deadline and of the forced ends
(R65, R68, R90, R125). -/
theorem mem_timeStep_records {heard : List Byte} {s : State} {time : Time} {weekday : Fin 7} {c : Channel} {o : Offer} :
    o ∈ (channelWork (frameAtBoundary heard s) (some (.setTime time weekday)) c).records ↔
      o ∈ (deadline (frameAtBoundary heard s) c).records ∨
        o ∈ forcedRecords c (deadline (frameAtBoundary heard s) c).ch .timeStep :=
  ChannelWork.closeAll_records (deadline_unforced heard s c) c .timeStep o

/-- A record of a channel's work names that channel and is an INTERVAL, EVENT or GAP record. -/
theorem channelWork_record {heard : List Byte} {s : State} {timed : Option Timed} {c : Channel} {o : Offer}
    (h : o ∈ (channelWork (frameAtBoundary heard s) timed c).records) :
    o.channel = some c ∧ (o.body.kind = 1 ∨ o.body.kind = 2 ∨ o.body.kind = 3) := by
  obtain ⟨hgap, hevent, hnatural, hforced⟩ := channelWork_records heard s timed c
  rcases ChannelWork.mem_records.1 h with hr | hr | hr | hr
  · exact ⟨(hgap o hr).1, .inr (.inr (hgap o hr).2)⟩
  · exact ⟨(hevent o hr).1, .inr (.inl (hevent o hr).2)⟩
  · exact ⟨(hnatural o hr).1, .inl (hnatural o hr).2⟩
  · exact ⟨(hforced o hr).1, .inl (hforced o hr).2⟩

/-- Of the records that a boundary offers with a channel in their header, each is of that channel's work, or the CONFIG
record of the timed command. -/
theorem mem_batch_channel {heard : List Byte} {s : State} {timed : Option Timed} {now : Time} {c : Channel} {o : Offer}
    (hc : o.channel = some c) :
    o ∈ batch (frameAtBoundary heard s) timed now ↔
      o ∈ (channelWork (frameAtBoundary heard s) timed c).records ∨
        ∃ t, timed = some t ∧ o = timedOffer (frameAtBoundary heard s) now t := by
  rw [mem_batch]
  constructor
  · rintro (⟨d, hd⟩ | hep | ht)
    · have hcd := (channelWork_record hd).1
      rw [hc, Option.some.injEq] at hcd
      exact .inl (hcd ▸ hd)
    · rw [(Activity.atBoundary_offer hep).1] at hc
      cases hc
    · exact .inr ht
  · rintro (hr | ht)
    · exact .inl ⟨c, hr⟩
    · exact .inr (.inr ht)

/-- A time step offers of the episode just the record of its forced close: the voided slice leaves the episode as it
stands (R114). -/
theorem Activity.atBoundary_timeStep_offer (a : Activity) (slice : Option Tag) (time : Time) (weekday : Fin 7)
    (quietHold : Nat) :
    (a.atBoundary slice (some (.setTime time weekday)) quietHold).2.toList = forcedEpisode a.episode .timeStep := by
  cases slice with
  | none =>
    cases he : a.episode <;>
      simp [Activity.atBoundary, episodeCause, EpisodeStep.force, he, forcedEpisode, episodeOffer]
  | some tag =>
    cases he : a.episode <;>
      simp [Activity.atBoundary, Activity.judge, episodeStep, sliceVerdict, episodeCause, EpisodeStep.force, he,
        forcedEpisode, episodeOffer, isTimeStep]

/-- Of the records that the boundary of a time step offers, the PROHIBITED ones are those of the episode's forced close
(R114, R115). -/
theorem mem_timeStep_batch_prohibited {heard : List Byte} {s : State} {time now : Time} {weekday : Fin 7} {o : Offer}
    (ho : o.body.kind = 4) :
    o ∈ batch (frameAtBoundary heard s) (some (.setTime time weekday)) now ↔
      o ∈ forcedEpisode s.activity.episode .timeStep := by
  rw [mem_batch, frameAtBoundary_activity, frameAtBoundary_timebase, frameAtBoundary_settings, ← Option.mem_toList,
    Activity.atBoundary_timeStep_offer]
  refine ⟨?_, fun h => .inr (.inl h)⟩
  rintro (⟨d, hd⟩ | hep | ⟨t, ht, rfl⟩)
  · have hkind := (channelWork_record hd).2
    omega
  · exact hep
  · obtain rfl := Option.some.inj ht
    simp [timedOffer, RecordBody.kind] at ho

/-- The boundary of a time step offers of a channel what its deadline offers and the records of the forced ends. -/
theorem mem_timeStep_batch_channel {heard : List Byte} {s : State} {time now : Time} {weekday : Fin 7} {c : Channel}
    {o : Offer} (hc : o.channel = some c) :
    o ∈ batch (frameAtBoundary heard s) (some (.setTime time weekday)) now ↔
      o ∈ (deadline (frameAtBoundary heard s) c).records ∨
        o ∈ forcedRecords c (deadline (frameAtBoundary heard s) c).ch .timeStep := by
  rw [mem_batch_channel hc, mem_timeStep_records]
  refine or_iff_left ?_
  rintro ⟨t, ht, rfl⟩
  obtain rfl := Option.some.inj ht
  cases hc

/-- With nothing pending a boundary offers of a channel what its deadline offers. -/
theorem mem_batch_withoutTimed_channel {heard : List Byte} {s : State} {now : Time} {c : Channel} {o : Offer}
    (hc : o.channel = some c) :
    o ∈ batch (frameAtBoundary heard s.withoutTimed) none now ↔ o ∈ (deadline (frameAtBoundary heard s) c).records := by
  rw [mem_batch_channel hc, frameAtBoundary_withoutTimed]
  exact or_iff_left fun ⟨_, ht, _⟩ => nomatch ht

/-- Settles O40: timebase, channels, episode, port and batch of the boundary of a time step, each by its own lemma. -/
theorem timeStepMovesTheSiteTime : Obligations.TimeStepMovesTheSiteTime := by
  intro s heard time weekday hclock hpending
  have htb : (boundaryWork (frameAtBoundary heard s)).timebase =
      s.timebase.atBoundary (some (.setTime time weekday)) := by simp [hpending]
  have hch : ∀ c, (boundaryWork (frameAtBoundary heard s)).channel c =
      { (deadline (frameAtBoundary heard s) c).ch with interval := none, gap := none, event := none, prev := none } := by
    intro c
    rw [boundaryWork_channel, frameAtBoundary_pendingTimed, hpending]
    exact ChannelWork.closeAll_ch _ c .timeStep
  have hu := boundaryWork_withoutTimed_channel heard s
  refine ⟨_, exec_boundary heard hclock, ?_, ?_, ?_, ?_, ?_, ?_, ?_, fun c => ?_, ?_, ?_, _, _, _,
    exec_boundary heard (s := s.withoutTimed) hclock, fun c => ?_, boundaryWork_batch heard s.withoutTimed, ?_,
    batch_ordered heard s (some (.setTime time weekday)) time, ?_, fun c o ho => ?_, fun o ho => ?_⟩
  · rw [htb, Timebase.atBoundary_timeStep]
  · rw [htb, Timebase.atBoundary_timeStep]
  · rw [htb, Timebase.atBoundary_timeStep]
    exact offsetFor_weekday weekday time.day
  · rw [htb, Timebase.atBoundary_timeStep]
    rfl
  · rw [htb]
    exact Timebase.atBoundary_timeStep_profile _ _ _
  · rw [htb]
    rfl
  · rw [htb]
    rfl
  · rw [hch c]
    exact ⟨rfl, rfl, rfl, rfl⟩
  · rw [boundaryWork_activity, frameAtBoundary_pendingTimed, hpending]
    exact Activity.atBoundary_closes _ _ _ _ (cause := .timeStep) rfl
  · rw [boundaryWork_authority, frameAtBoundary_pendingTimed, hpending, frameAtBoundary_authority]
    rfl
  · rw [hch c, hu c]
  · rw [boundaryWork_log, frameAtBoundary_pendingTimed, hpending, frameAtBoundary_log]
    rfl
  · rw [batch_getLast?]
    simp [timedOffer]
  · rw [hu c, withoutTimed_pendingTimed, mem_timeStep_batch_channel ho, mem_batch_withoutTimed_channel ho]
  · exact mem_timeStep_batch_prohibited ho

end Sys2Proof.Machine
end

section
/-! PROOFS. The boundaries that the table names by what comes about at them. -/

namespace Sys2Proof.Machine

/-- A named boundary where its event comes about is the BOUNDARY, with what holds after it; where not, nothing changes
(log entry 4). -/
theorem reachBoundaryIf_spec {occurs : State → Bool} {heard : List Byte} {s : State} {cause : Prop}
    {holds : State → Prop} (hcause : cause ↔ s.clockRuns = true ∧ occurs (frameAtBoundary heard s) = true)
    (hholds : cause → holds (boundaryWork (frameAtBoundary heard s))) :
    (cause → ∃ t,
        (Host.Outcome.next (reachBoundaryIf occurs heard s) : Host.Outcome State Fault Refusal) = .next t ∧
          exec (.boundary heard) s = .next t ∧ holds t) ∧
      (¬cause → (Host.Outcome.next (reachBoundaryIf occurs heard s) : Host.Outcome State Fault Refusal) = .next s) := by
  refine ⟨fun h => ?_, fun h => ?_⟩
  · obtain ⟨hclock, hoccurs⟩ := hcause.1 h
    refine ⟨_, ?_, exec_boundary heard hclock, hholds h⟩
    simp [reachBoundaryIf, reachBoundary, hclock, hoccurs]
  · rw [hcause, ← Bool.and_eq_true] at h
    rw [reachBoundaryIf, if_neg h]

/-! ### Rollover and wrap (R3, R4) -/

theorem isTimeStep_eq_false {timed : Option Timed} :
    isTimeStep timed = false ↔ ∀ time weekday, timed ≠ some (.setTime time weekday) := by
  rw [← Bool.not_eq_true, isTimeStep_eq_true]
  simp

theorem Timebase.rollsOver_iff {tb : Timebase} {timed : Option Timed} :
    tb.rollsOver timed = true ↔
      tb.slice ≠ none ∧ tb.time.sod.val = 691199 ∧ ∀ time weekday, timed ≠ some (.setTime time weekday) := by
  simp [Timebase.rollsOver, ← isTimeStep_eq_false, Option.isSome_iff_ne_none, and_assoc]

theorem Timebase.wraps_iff {tb : Timebase} {timed : Option Timed} :
    tb.wraps timed = true ↔ tb.rollsOver timed = true ∧ tb.time.day = 65535#16 := by
  simp [Timebase.wraps]

/-- A boundary that rolls the day over starts slice 0 of the next day, and the wrap empties the rest-day list. -/
theorem Timebase.atBoundary_rollover {tb : Timebase} {timed : Option Timed} (h : tb.rollsOver timed = true) :
    (tb.atBoundary timed).time = ⟨tb.time.day + 1, 0⟩ ∧
      (tb.time.day = 65535#16 → (tb.atBoundary timed).restDays = []) := by
  obtain ⟨hslice, hsod, htimed⟩ := Timebase.rollsOver_iff.1 h
  rw [Timebase.atBoundary_advance hslice htimed]
  rcases tb.advance_cases with ⟨hlt, -⟩ | ⟨-, hday, ha, -⟩ | ⟨-, hday, ha, -⟩
  · omega
  · rw [ha]
    exact ⟨rfl, fun hwrap => absurd hwrap hday⟩
  · rw [ha, hday]
    exact ⟨rfl, fun _ => rfl⟩

/-! ### Link states (R34, R35) -/

/-- The deadline takes a channel from SEARCH to LIVE exactly at a third valid report in succession (R34). -/
theorem acquires_iff {s : State} {c : Channel} :
    acquires c s = true ↔ s.timebase.lastSlice ≠ none ∧ (s.channel c).link = .search ∧ (s.channel c).acquire = 2 ∧
      interpret (s.channel c).held ≠ .missing := by
  simp only [acquires, Bool.and_eq_true, decide_eq_true_eq, Option.isSome_iff_ne_none, and_assoc]
  refine and_congr_right fun _ => and_congr_right fun hl => ?_
  obtain ⟨t1, t2, t3, -⟩ := (s.channel c).moved_table s.settings.lossCount
  obtain ⟨_, -, hd⟩ := deadlineLink_moved (lossCount := s.settings.lossCount) (ch := s.channel c) (by simp [hl])
  rw [hd]
  dsimp only
  by_cases hf : interpret (s.channel c).held = .missing
  · rw [(ChannelState.linkOf_eq (t1 hl hf)).1]
    simp [hf]
  · by_cases ha : (s.channel c).acquire = 2
    · rw [(ChannelState.linkOf_eq (t2 hl hf ha)).1]
      simp [hf, ha]
    · rw [(ChannelState.linkOf_eq (t3 hl hf ha)).1]
      simp [ha]

/-- The deadline takes a channel from LIVE to LOST exactly at the MISSING that fills its miss count (R35). -/
theorem losesHead_iff {s : State} {c : Channel} :
    losesHead c s = true ↔ s.timebase.lastSlice ≠ none ∧ (s.channel c).link = .live ∧
      interpret (s.channel c).held = .missing ∧ s.settings.lossCount ≤ (s.channel c).miss + 1 := by
  simp only [losesHead, Bool.and_eq_true, decide_eq_true_eq, Option.isSome_iff_ne_none, and_assoc]
  refine and_congr_right fun _ => and_congr_right fun hl => ?_
  obtain ⟨-, -, -, t4, t5, t6, -⟩ := (s.channel c).moved_table s.settings.lossCount
  obtain ⟨_, -, hd⟩ := deadlineLink_moved (lossCount := s.settings.lossCount) (ch := s.channel c) (by simp [hl])
  rw [hd]
  dsimp only
  by_cases hf : interpret (s.channel c).held = .missing
  · by_cases hm : s.settings.lossCount ≤ (s.channel c).miss + 1
    · rw [(ChannelState.linkOf_eq (t5 hl hf hm)).1]
      simp [hf, hm]
    · rw [(ChannelState.linkOf_eq (t6 hl hf (by omega))).1]
      simp [hm]
  · rw [(ChannelState.linkOf_eq (t4 hl hf)).1]
    simp [hf]

/-- The link of a channel after a boundary with nothing pending that has a deadline, where it is not OFF. -/
theorem boundary_link {s : State} (heard : List Byte) {c : Channel} (hnone : s.pendingTimed = none)
    (hlast : s.timebase.lastSlice ≠ none) (hon : ((frameAtBoundary heard s).channel c).link ≠ .off) :
    ((boundaryWork (frameAtBoundary heard s)).channel c).link =
      (((frameAtBoundary heard s).channel c).moved s.settings.lossCount).link := by
  obtain ⟨ended, he⟩ := Option.ne_none_iff_exists'.1 hlast
  have hmoved := (deadline_moved (s := frameAtBoundary heard s) (c := c) (by simpa using he) hon).1
  rw [boundary_channel heard c hnone]
  exact (congrArg Link.state hmoved).trans (by rw [frameAtBoundary_settings]; rfl)

/-! ### The episode (R113) -/

/-- A slice end closes the episode exactly where the slice is not voided and not prohibited, and seven pause slices
stand before it (R113). -/
theorem episodeStep_closes {e : Episode} {v : ActivityVerdict} {cls : ClassNo} :
    (episodeStep (some e) v cls).episode = none ↔ v.voided = false ∧ v.prohibited = false ∧ 7 ≤ e.pause := by
  unfold episodeStep Config.episodePause
  cases v.voided with
  | true => simp
  | false =>
    cases v.prohibited with
    | true => simp
    | false =>
      by_cases hp : 8 ≤ e.pause + 1
      · simp [hp]
        omega
      · simp [hp]
        omega

theorem pauseCloses_iff {s : State} :
    pauseCloses s = true ↔ (∀ time weekday, s.pendingTimed ≠ some (.setTime time weekday)) ∧
      ∃ tag e, s.timebase.slice = some tag ∧ s.activity.episode = some e ∧ 7 ≤ e.pause ∧
        (tag.plant = true ∨ s.activity.highSeen &&& s.activity.enable = 0) := by
  unfold pauseCloses Activity.pauseCloses
  rw [← isTimeStep_eq_false]
  cases hslice : s.timebase.slice with
  | none => simp
  | some tag =>
    cases hep : s.activity.episode with
    | none => simp
    | some e =>
      simp only [decide_eq_true_eq, episodeStep_closes, Option.some.injEq, exists_and_left, exists_eq_left']
      cases hstep : isTimeStep s.pendingTimed with
      | true => simp [sliceVerdict]
      | false =>
        simp only [sliceVerdict, Bool.not_false, Bool.true_and, true_and]
        cases tag.plant <;> simp [and_comm]

/-- At a boundary at which the pause closes the episode none is left. -/
theorem pauseCloses_episode {s : State} (h : pauseCloses s = true) :
    (s.activity.atBoundary s.timebase.slice s.pendingTimed s.settings.quietHold).1.episode = none := by
  unfold pauseCloses Activity.pauseCloses at h
  cases hcause : episodeCause s.pendingTimed with
  | some cause => exact Activity.atBoundary_closes _ _ _ _ hcause
  | none =>
    cases hslice : s.timebase.slice with
    | none => simp [hslice] at h
    | some tag =>
      cases hep : s.activity.episode with
      | none => simp [hslice, hep] at h
      | some e =>
        simp only [hslice, hep, decide_eq_true_eq] at h
        rw [(Activity.atBoundary_episode _ _ _ _ hcause).1, hep]
        exact h

/-! ### Events (R122, R123) -/

/-- The cause with which the account of the result `r` closes an open event, if it does: the hold test comes before the
age test (R122, R123). -/
def Event.closeCause (e : Event) (r : SliceResult) : Option Cause :=
  if triggers e.lmaxThreshold e.peakThreshold r = false ∧ e.hold ≤ 1 then some .hold
  else if 65535 ≤ e.age + 1 then some .long else none

theorem Event.closeCause_eq_hold {e : Event} {r : SliceResult} :
    e.closeCause r = some .hold ↔ triggers e.lmaxThreshold e.peakThreshold r = false ∧ e.hold ≤ 1 := by
  unfold Event.closeCause
  by_cases h : triggers e.lmaxThreshold e.peakThreshold r = false ∧ e.hold ≤ 1
  · rw [if_pos h]
    exact iff_of_true rfl h
  · rw [if_neg h]
    refine iff_of_false ?_ h
    split <;> simp

theorem Event.closeCause_eq_long {e : Event} {r : SliceResult} :
    e.closeCause r = some .long ↔
      (triggers e.lmaxThreshold e.peakThreshold r = true ∨ 2 ≤ e.hold) ∧ 65535 ≤ e.age + 1 := by
  have hnot : ¬(triggers e.lmaxThreshold e.peakThreshold r = false ∧ e.hold ≤ 1) ↔
      triggers e.lmaxThreshold e.peakThreshold r = true ∨ 2 ≤ e.hold := by
    rw [not_and_or, Bool.not_eq_false, Nat.not_le]
    rfl
  unfold Event.closeCause
  rw [← hnot]
  by_cases h : triggers e.lmaxThreshold e.peakThreshold r = false ∧ e.hold ≤ 1
  · simp [h]
  · by_cases hage : 65535 ≤ e.age + 1 <;> simp [h, hage]

theorem eventStep_closed (x : SliceContext) (c : Channel) (iv : Interval) (event : Option Event) (r : SliceResult) :
    (eventStep x c iv event r).closed = event.bind fun e => e.closeCause r := by
  have hsettle : ∀ e' cause, (settleEvent c iv e' cause).closed = cause := fun _ cause => by cases cause <;> rfl
  cases event with
  | none => rcases eventStep_idle_cases x c iv r with ⟨-, h⟩ | ⟨_, _, _, -, -, h⟩ <;> rw [h] <;> rfl
  | some e =>
    change (openContextStep x c iv e r).closed = e.closeCause r
    unfold Event.closeCause
    rcases openContextStep_cases x c iv e r with ⟨_, _, _, -, ht, h⟩ | ⟨ht, h⟩
    · rw [h, hsettle, if_neg (c := _ ∧ _) (by simp [ht])]
    · rw [h, hsettle]
      by_cases hhold : e.hold ≤ 1
      · rw [if_pos (by omega), if_pos ⟨ht, hhold⟩]
      · rw [if_neg (by omega), if_neg (c := _ ∧ _) (by simp [hhold])]

/-- An event that an account closes is gone. -/
theorem eventStep_closed_none {x : SliceContext} {c : Channel} {iv : Interval} {event : Option Event} {r : SliceResult}
    {cause : Cause} (h : (eventStep x c iv event r).closed = some cause) : (eventStep x c iv event r).event = none := by
  have hsettle : ∀ e' k, (settleEvent c iv e' k).closed = some cause → (settleEvent c iv e' k).event = none := by
    intro e' k
    cases k <;> simp [settleEvent]
  cases event with
  | none => rcases eventStep_idle_cases x c iv r with ⟨-, h1⟩ | ⟨_, _, _, -, -, h1⟩ <;> simp [h1] at h
  | some e =>
    change (openContextStep x c iv e r).event = none
    change (openContextStep x c iv e r).closed = some cause at h
    rcases openContextStep_cases x c iv e r with ⟨_, _, _, -, -, h1⟩ | ⟨-, h1⟩ <;> rw [h1] at h ⊢ <;>
      exact hsettle _ _ h

/-- The cause with which the deadline closes a channel's event: that of the account of the result handed on, if one is
and an event is open. -/
theorem deadline_eventClosed (heard : List Byte) (s : State) (c : Channel) :
    (deadline (frameAtBoundary heard s) c).eventClosed =
      (s.handedOn heard c).bind fun r => ((frameAtBoundary heard s).channel c).event.bind fun e => e.closeCause r := by
  rcases deadline_cases heard s c with ⟨hnone, ch, hd, -⟩ | ⟨ended, r, -, -, hr, -, hd⟩
  · rw [hd, hnone]
    rfl
  · rw [hd, hr, account_eq, deadlineLink_frame]
    exact eventStep_closed _ _ _ _ _

/-- An event that the deadline closes is gone from the channel. -/
theorem deadline_eventClosed_none {heard : List Byte} {s : State} {c : Channel} {cause : Cause}
    (h : (deadline (frameAtBoundary heard s) c).eventClosed = some cause) :
    (deadline (frameAtBoundary heard s) c).ch.event = none := by
  rcases deadline_cases heard s c with ⟨-, ch, hd, -⟩ | ⟨ended, r, -, -, -, -, hd⟩ <;> rw [hd] at h ⊢
  · cases h
  · rw [account_eq] at h ⊢
    exact eventStep_closed_none h

/-- No timed command opens an event (R117). -/
theorem ChannelWork.takeTimed_event {w : ChannelWork} (h : w.ch.event = none) (timed : Option Timed) (c : Channel) :
    (w.takeTimed timed c).ch.event = none := by
  have hclose : ∀ cause, (w.closeAll c cause).ch.event = none := fun cause => by rw [w.closeAll_ch]
  unfold ChannelWork.takeTimed
  split
  · exact h
  · exact hclose _
  · split
    · rcases w.cut_cases c with ⟨-, h1⟩ | ⟨_, -, -, h1, -⟩ <;> rw [h1]
      exact h
    · exact h
  · split <;> exact h
  · split
    · exact hclose _
    · exact h
  · exact hclose _

/-- After a boundary whose deadline closes the channel's event none is open. -/
theorem boundary_event_none {heard : List Byte} {s : State} {c : Channel} {cause : Cause}
    (h : (deadline (frameAtBoundary heard s) c).eventClosed = some cause) :
    ((boundaryWork (frameAtBoundary heard s)).channel c).event = none := by
  rw [boundaryWork_channel]
  exact ChannelWork.takeTimed_event (deadline_eventClosed_none h) _ c

/-- The account ahead closes the event by HOLD (R122). -/
theorem holdCloses_iff {heard : List Byte} {s : State} {c : Channel} :
    holdCloses c (frameAtBoundary heard s) = true ↔
      ∃ r e, s.handedOn heard c = some r ∧ ((frameAtBoundary heard s).channel c).event = some e ∧
        triggers e.lmaxThreshold e.peakThreshold r = false ∧ e.hold ≤ 1 := by
  simp only [holdCloses, decide_eq_true_eq, deadline_eventClosed, Option.bind_eq_some_iff, Event.closeCause_eq_hold,
    exists_and_left]

/-- The account ahead closes the event by LONG (R123). -/
theorem longCloses_iff {heard : List Byte} {s : State} {c : Channel} :
    longCloses c (frameAtBoundary heard s) = true ↔
      ∃ r e, s.handedOn heard c = some r ∧ ((frameAtBoundary heard s).channel c).event = some e ∧
        (triggers e.lmaxThreshold e.peakThreshold r = true ∨ 2 ≤ e.hold) ∧ 65535 ≤ e.age + 1 := by
  simp only [longCloses, decide_eq_true_eq, deadline_eventClosed, Option.bind_eq_some_iff, Event.closeCause_eq_long,
    exists_and_left]

/-- Settles O42: for each named event, its cause is the test of the command, and the event holds after the boundary. -/
theorem namedBoundariesAreBoundaries : Obligations.NamedBoundariesAreBoundaries := by
  rintro s heard c ch rfl
  have htime : (boundaryWork (frameAtBoundary heard s)).timebase = s.timebase.atBoundary s.pendingTimed := by simp
  have hrolls : dayRolls (frameAtBoundary heard s) = s.timebase.rollsOver s.pendingTimed := by simp [dayRolls]
  have hwraps : dayWraps (frameAtBoundary heard s) = s.timebase.wraps s.pendingTimed := by simp [dayWraps]
  have hpauses := pauseCloses_iff (s := frameAtBoundary heard s)
  simp only [frameAtBoundary_timebase, frameAtBoundary_activity, frameAtBoundary_pendingTimed] at hpauses
  refine ⟨reachBoundaryIf_spec ?_ fun h => ?_, reachBoundaryIf_spec ?_ fun h => ?_, reachBoundaryIf_spec ?_ fun h => ?_,
    reachBoundaryIf_spec ?_ fun h => ?_, reachBoundaryIf_spec ?_ fun h => ?_, reachBoundaryIf_spec ?_ fun h => ?_,
    reachBoundaryIf_spec ?_ fun h => ?_⟩
  · rw [hrolls, Timebase.rollsOver_iff]
  · rw [htime]
    exact (Timebase.atBoundary_rollover (Timebase.rollsOver_iff.2 h.2)).1
  · rw [hwraps, Timebase.wraps_iff, Timebase.rollsOver_iff, and_assoc]
  · obtain ⟨⟨-, hrollover⟩, hday⟩ := h
    obtain ⟨hnew, hempty⟩ := Timebase.atBoundary_rollover (Timebase.rollsOver_iff.2 hrollover)
    rw [htime, hnew, hday]
    exact ⟨rfl, hempty hday⟩
  · rw [acquires_iff, frameAtBoundary_timebase]
  · obtain ⟨-, hlast, hl, ha, hf⟩ := h
    intro hnone
    rw [boundary_link heard hnone hlast (by simp [hl])]
    obtain ⟨-, t2, -⟩ := ((frameAtBoundary heard s).channel c).moved_table s.settings.lossCount
    exact (ChannelState.linkOf_eq (t2 hl hf ha)).1
  · rw [losesHead_iff, frameAtBoundary_timebase, frameAtBoundary_settings]
  · obtain ⟨-, hlast, hl, hf, hm⟩ := h
    intro hnone
    rw [boundary_link heard hnone hlast (by simp [hl])]
    obtain ⟨-, -, -, -, t5, -⟩ := ((frameAtBoundary heard s).channel c).moved_table s.settings.lossCount
    exact (ChannelState.linkOf_eq (t5 hl hf hm)).1
  · rw [hpauses]
  · rw [boundaryWork_activity]
    exact pauseCloses_episode (hpauses.2 h.2)
  · rw [holdCloses_iff]
  · exact boundary_event_none (of_decide_eq_true (holdCloses_iff.2 h.2))
  · rw [longCloses_iff]
  · exact boundary_event_none (of_decide_eq_true (longCloses_iff.2 h.2))

end Sys2Proof.Machine
end

section
/-! PROOFS. The byte layouts of records and captures. -/

namespace Sys2Proof.Machine

/-! ### Fields of a train of bytes (R194)

A train is a row of pieces. A field is found by passing over the pieces before it, each by its width, and is then read
off the piece in which it stands. -/

/-- A field behind a piece stands in the rest, as much earlier as the piece is long. -/
theorem fieldAt_skip {p : List Byte} {width : Nat} (h : p.length = width) (l : List Byte) (k w : Nat) :
    fieldAt (p ++ l) (k + width) w = fieldAt l k w := by
  rw [fieldAt, List.drop_append, List.drop_eq_nil_of_le (by omega), List.nil_append, h, Nat.add_sub_cancel, fieldAt]

/-- A field that lies within the first `n` bytes is read off them. -/
theorem fieldAt_take {offset w n : Nat} (h : offset + w ≤ n) (l : List Byte) :
    fieldAt (l.take n) offset w = fieldAt l offset w := by
  rw [fieldAt, List.drop_take, List.take_take, Nat.min_eq_left (by omega), fieldAt]

/-- A field that lies within the first piece is read off it. -/
theorem fieldAt_left {p : List Byte} {offset w : Nat} (h : offset + w ≤ p.length) (l : List Byte) :
    fieldAt (p ++ l) offset w = fieldAt p offset w := by
  rw [← fieldAt_take h (p ++ l), List.take_left]

@[simp] theorem fieldAt_byte (b : Byte) (l : List Byte) : fieldAt (b :: l) 0 1 = b.toNat % 256 := by
  rw [Nat.mod_eq_of_lt b.isLt]
  simp [fieldAt]

@[simp] theorem fieldAt_put1 (n : Nat) (l : List Byte) : fieldAt (put1 n ++ l) 0 1 = n % 256 := by
  simp [fieldAt, put1]

@[simp] theorem fieldAt_put2 (n : Nat) (l : List Byte) : fieldAt (put2 n ++ l) 0 2 = n % 65536 := by
  simp [fieldAt, put2]
  omega

theorem fieldAt_put3 (n : Nat) (l : List Byte) : fieldAt (put3 n ++ l) 0 3 = n % 16777216 := by
  simp [fieldAt, put3]
  omega

@[simp] theorem fieldAt_put4 (n : Nat) (l : List Byte) : fieldAt (put4 n ++ l) 0 4 = n % 4294967296 := by
  simp [fieldAt, put4]
  omega

@[simp] theorem fieldAt_put1? (o : Option Nat) (l : List Byte) : fieldAt (put1? o ++ l) 0 1 = o.getD 255 % 256 := by
  cases o with
  | none => rfl
  | some n => exact fieldAt_put1 n l

@[simp] theorem fieldAt_put2? (o : Option Nat) (l : List Byte) :
    fieldAt (put2? o ++ l) 0 2 = o.getD 65535 % 65536 := by
  cases o with
  | none => rfl
  | some n => exact fieldAt_put2 n l

@[simp] theorem fieldAt_putTime_day (t : Time) (l : List Byte) :
    fieldAt (putTime t ++ l) 0 2 = t.day.toNat % 65536 := by
  rw [putTime, List.append_assoc, fieldAt_put2]

@[simp] theorem fieldAt_putTime_sod (t : Time) (l : List Byte) :
    fieldAt (putTime t ++ l) 2 3 = t.sod.val % 16777216 := by
  rw [putTime, List.append_assoc, ← Nat.zero_add 2, fieldAt_skip (length_put2 _), fieldAt_put3]

@[simp] theorem fieldAt_putTime?_day (o : Option Time) (l : List Byte) :
    fieldAt (putTime? o ++ l) 0 2 = (o.map fun t => t.day.toNat).getD 65535 % 65536 := by
  cases o with
  | none => rfl
  | some t => exact fieldAt_putTime_day t l

@[simp] theorem fieldAt_putTime?_sod (o : Option Time) (l : List Byte) :
    fieldAt (putTime? o ++ l) 2 3 = (o.map fun t => t.sod.val).getD 16777215 % 16777216 := by
  cases o with
  | none => rfl
  | some t => exact fieldAt_putTime_sod t l

@[simp] theorem fieldAt_byte_skip (b : Byte) (l : List Byte) (k w : Nat) : fieldAt (b :: l) (k + 1) w = fieldAt l k w :=
  rfl

@[simp] theorem fieldAt_put1_skip (n : Nat) (l : List Byte) (k w : Nat) :
    fieldAt (put1 n ++ l) (k + 1) w = fieldAt l k w := fieldAt_skip (length_put1 n) l k w

@[simp] theorem fieldAt_put2_skip (n : Nat) (l : List Byte) (k w : Nat) :
    fieldAt (put2 n ++ l) (k + 2) w = fieldAt l k w := fieldAt_skip (length_put2 n) l k w

@[simp] theorem fieldAt_put4_skip (n : Nat) (l : List Byte) (k w : Nat) :
    fieldAt (put4 n ++ l) (k + 4) w = fieldAt l k w := fieldAt_skip (length_put4 n) l k w

@[simp] theorem fieldAt_put1?_skip (o : Option Nat) (l : List Byte) (k w : Nat) :
    fieldAt (put1? o ++ l) (k + 1) w = fieldAt l k w := fieldAt_skip (length_put1? o) l k w

@[simp] theorem fieldAt_put2?_skip (o : Option Nat) (l : List Byte) (k w : Nat) :
    fieldAt (put2? o ++ l) (k + 2) w = fieldAt l k w := fieldAt_skip (length_put2? o) l k w

@[simp] theorem fieldAt_putTime_skip (t : Time) (l : List Byte) (k w : Nat) :
    fieldAt (putTime t ++ l) (k + 5) w = fieldAt l k w := fieldAt_skip (length_putTime t) l k w

@[simp] theorem fieldAt_putTime?_skip (o : Option Time) (l : List Byte) (k w : Nat) :
    fieldAt (putTime? o ++ l) (k + 5) w = fieldAt l k w := fieldAt_skip (length_putTime? o) l k w

/-! ### Rows of a layout -/

@[simp] theorem laid_nil (bytes : List Byte) : Laid bytes [] := fun _ h => nomatch h

@[simp] theorem laid_cons {bytes : List Byte} {row : Field} {rows : List Field} :
    Laid bytes (row :: rows) ↔ fieldAt bytes row.offset row.width = row.value % 256 ^ row.width ∧ Laid bytes rows := by
  simp [Laid]

@[simp] theorem laid_append {bytes : List Byte} {rows rows' : List Field} :
    Laid bytes (rows ++ rows') ↔ Laid bytes rows ∧ Laid bytes rows' := by
  simp only [Laid, List.mem_append, or_imp, forall_and]

/-! ### Sets of flags -/

/-- The number with the flags of a list as its bits, the first in bit 0. -/
def flagWord : List Bool → Nat
  | [] => 0
  | b :: bs => boolCode b + 2 * flagWord bs

theorem flagWord_lt (bs : List Bool) : flagWord bs < 2 ^ bs.length := by
  induction bs with
  | nil => exact Nat.one_pos
  | cons b bs ih =>
    simp only [flagWord, List.length_cons, Nat.pow_succ]
    cases b <;> simp only [boolCode, Bool.false_eq_true, ↓reduceIte] <;> omega

theorem testBit_flagWord (bs : List Bool) (i : Nat) : (flagWord bs).testBit i = bs.getD i false := by
  induction bs generalizing i with
  | nil => simp [flagWord]
  | cons b bs ih =>
    cases i with
    | zero =>
      have hbit : (boolCode b + 2 * flagWord bs) % 2 = boolCode b := by cases b <;> simp [boolCode]
      rw [flagWord, Nat.testBit_zero, hbit]
      cases b <;> rfl
    | succ i =>
      have hrest : (boolCode b + 2 * flagWord bs) / 2 = flagWord bs := by
        cases b <;> simp only [boolCode, Bool.false_eq_true, ↓reduceIte] <;> omega
      rw [flagWord, Nat.testBit_succ, hrest, ih, List.getD_cons_succ]

/-- The flags of an INTERVAL record, bit by bit (R199). -/
theorem IntervalRecord.flags_eq (r : IntervalRecord) :
    r.flags = flagWord [r.short, r.overload, r.lmaxExceeded, r.peakExceeded, r.timeUnset, r.eventsSuppressed, r.invalid,
      r.noBackground, r.dominated] := by
  simp only [IntervalRecord.flags, flagWord]
  omega

theorem IntervalRecord.flags_lt (r : IntervalRecord) : r.flags < 65536 := by
  rw [r.flags_eq]
  exact (flagWord_lt _).trans (show 2 ^ 9 < 65536 by decide)

/-! ### Class codes and rest days in a summary (R199) -/

@[simp] theorem length_putCodes (n : Nat) (codes : List ClassNo) : (putCodes n codes).length = n := by
  induction n generalizing codes with
  | zero => rfl
  | succ n ih =>
    match codes with
    | [] => simp [putCodes, ih]
    | [_] => simp [putCodes, ih]
    | _ :: _ :: cs => simp [putCodes, ih]

/-- Byte `i` of the codes holds the codes numbered 2i and 2i + 1, Fh where one is missing. -/
theorem fieldAt_putCodes {n i : Nat} (h : i < n) (codes : List ClassNo) (l : List Byte) :
    fieldAt (putCodes n codes ++ l) i 1 =
      (((codes[2 * i]?).map Fin.val).getD 15 * 16 + ((codes[2 * i + 1]?).map Fin.val).getD 15) % 256 := by
  induction n generalizing codes i with
  | zero => omega
  | succ n ih =>
    cases i with
    | zero =>
      match codes with
      | [] => rfl
      | [a] => simp [putCodes]
      | a :: b :: cs => simp [putCodes]
    | succ i =>
      have hi : i < n := by omega
      match codes with
      | [] => simpa [putCodes] using ih hi []
      | [a] => simpa [putCodes, Nat.mul_add] using ih hi []
      | a :: b :: cs => simpa [putCodes, Nat.mul_add] using ih hi cs

theorem fieldAt_putCodes_skip (n : Nat) (codes : List ClassNo) (l : List Byte) (k w : Nat) :
    fieldAt (putCodes n codes ++ l) (k + n) w = fieldAt l k w := fieldAt_skip (length_putCodes n codes) l k w

@[simp] theorem length_putRestDays (l : List (BitVec 16)) : (putRestDays l).length = 33 := by
  simp [putRestDays, Config.restDayPlaces]

/-- Place `i` of a row of days holds day number `i`, and all ones where there is none. -/
theorem fieldAt_days (l : List (BitVec 16)) {i m : Nat} (h : 2 * i + 2 ≤ m) :
    fieldAt ((l.flatMap fun d => put2 d.toNat) ++ List.replicate m 0xFF#8) (2 * i) 2 =
      (l.getD i 0xFFFF#16).toNat := by
  induction l generalizing i with
  | nil =>
    obtain ⟨k, rfl⟩ := Nat.exists_eq_add_of_le h
    have hsplit : List.replicate (2 * i + 2 + k) 0xFF#8 =
        List.replicate (2 * i) 0xFF#8 ++ (0xFF#8 :: 0xFF#8 :: List.replicate k 0xFF#8) := by
      rw [Nat.add_assoc, List.replicate_add, Nat.add_comm 2 k]
      rfl
    have hskip := fieldAt_skip (p := List.replicate (2 * i) 0xFF#8) List.length_replicate
      (0xFF#8 :: 0xFF#8 :: List.replicate k 0xFF#8) 0 2
    rw [Nat.zero_add] at hskip
    rw [List.flatMap_nil, List.nil_append, hsplit, hskip]
    rfl
  | cons d ds ih =>
    rw [List.flatMap_cons, List.append_assoc]
    cases i with
    | zero =>
      rw [Nat.mul_zero, fieldAt_put2]
      exact Nat.mod_eq_of_lt d.isLt
    | succ i => rw [Nat.mul_add, Nat.mul_one, fieldAt_put2_skip, ih (by omega), List.getD_cons_succ]

/-- A rest-day list in its 33 bytes: the number of days, then the 16 places (R198, R199). -/
theorem fieldAt_putRestDays (l : List (BitVec 16)) (post : List Byte) :
    fieldAt (putRestDays l ++ post) 0 1 = l.length % 256 ∧
      ∀ i < 16, fieldAt (putRestDays l ++ post) (2 * i + 1) 2 = (l.getD i 0xFFFF#16).toNat := by
  unfold putRestDays
  rw [List.append_assoc]
  refine ⟨fieldAt_put1 _ _, fun i hi => ?_⟩
  rw [fieldAt_put1_skip, fieldAt_left (by simp [Config.restDayPlaces]; omega),
    fieldAt_take (by simp only [Config.restDayPlaces]; omega)]
  exact fieldAt_days l (by simp only [Config.restDayPlaces]; omega)

/-! ### Records (R150, R199) -/

theorem length_padTo (width : Nat) (bytes : List Byte) : (padTo width bytes).length = width := by
  simp [padTo]

theorem padTo_eq {width : Nat} {bytes : List Byte} (h : bytes.length ≤ width) :
    padTo width bytes = bytes ++ List.replicate (width - bytes.length) 0#8 := by
  rw [padTo, List.take_append, List.take_of_length_le h, List.take_replicate, Nat.min_eq_left (by omega)]

@[simp] theorem length_putClass (k : ClassParams) : (putClass k).length = 8 := by simp [putClass]

@[simp] theorem length_putRoute (x : Route) : (putRoute x).length = 2 := by simp [putRoute]

/-- Every body fits into its 36 bytes (R199). -/
theorem RecordBody.length_bytes_le (b : RecordBody) : b.bytes.length ≤ 36 := by
  cases b with
  | config port change => cases change <;> simp [RecordBody.bytes, ConfigChange.summary]
  | _ => simp [RecordBody.bytes, putInterval, putGap, putEvent, putProhibited, putLoss]

/-- The 12 bytes of a record's header (R150, R199). -/
def recordHeader (r : Record) (final : Bool) : List Byte :=
  put4 r.seq.toNat ++ (put1 r.offer.body.kind ++ (put1? (r.offer.channel.map Fin.val) ++ (putTime r.offer.time ++
    put1 (boolCode final))))

/-- A record is its header, its body, and 00h up to 48 bytes. -/
theorem Record.bytes_eq (r : Record) (final : Bool) :
    r.bytes final =
      recordHeader r final ++ (r.offer.body.bytes ++ List.replicate (36 - r.offer.body.bytes.length) 0#8) := by
  rw [Record.bytes, padTo_eq r.offer.body.length_bytes_le]
  simp [recordHeader]

theorem Record.length_bytes (r : Record) (final : Bool) : (r.bytes final).length = 48 := by
  simp [Record.bytes, length_padTo]

/-- The rows of the header (R150). -/
theorem Record.header_laid (r : Record) (final : Bool) :
    Laid (r.bytes final)
      ([⟨0, 4, r.seq.toNat⟩, optionalField 5 1 (r.offer.channel.map Fin.val)] ++ timeFields 6 r.offer.time ++
        [⟨11, 1, if final then 1 else 0⟩]) := by
  rw [r.bytes_eq]
  simp [recordHeader, timeFields, optionalField, boolCode]

/-- A record in pieces: the kind stands behind 4 bytes, the body behind 7 more, and behind the body the unused bytes are
00h (R150, R199). -/
theorem Record.pieces {r : Record} {b : RecordBody} (hb : r.offer.body = b) (final : Bool) :
    ∃ pre mid post, r.bytes final = pre ++ (put1 b.kind ++ (mid ++ (b.bytes ++ post))) ∧ pre.length = 4 ∧
      mid.length = 7 ∧ post = List.replicate (36 - b.bytes.length) 0 := by
  subst hb
  refine ⟨put4 r.seq.toNat, put1? (r.offer.channel.map Fin.val) ++ (putTime r.offer.time ++ put1 (boolCode final)), _,
    ?_, rfl, by simp, rfl⟩
  rw [r.bytes_eq, recordHeader]
  simp only [List.append_assoc]
  rfl

/-- Rows that stand in every train with the kind and the body of a record in their places stand in the record, and
behind the body the unused bytes are 00h. -/
theorem Record.laid {r : Record} {b : RecordBody} {final : Bool} {rows : List Field} {n : Nat}
    (hb : r.offer.body = b)
    (hrows : ∀ pre mid post, pre.length = 4 → mid.length = 7 →
      Laid (pre ++ (put1 b.kind ++ (mid ++ (b.bytes ++ post)))) rows)
    (hlength : b.bytes.length = n) :
    Laid (r.bytes final) rows ∧ (r.bytes final).drop (n + 12) = List.replicate (36 - n) 0 := by
  obtain ⟨pre, mid, post, hbytes, hpre, hmid, hpost⟩ := Record.pieces hb final
  rw [hbytes]
  refine ⟨hrows pre mid post hpre hmid, ?_⟩
  rw [← hlength, ← hpost]
  simp only [← List.append_assoc]
  refine List.drop_left' ?_
  simp only [List.length_append, hpre, hmid, length_put1]
  omega

/-- The flags of an INTERVAL record stand in bytes 14 and 15 (R199). -/
theorem Record.interval_flags {r : Record} {b : IntervalRecord} (hb : r.offer.body = .interval b) (final : Bool)
    (i : Nat) :
    (fieldAt (r.bytes final) 14 2).testBit i =
      [b.short, b.overload, b.lmaxExceeded, b.peakExceeded, b.timeUnset, b.eventsSuppressed, b.invalid, b.noBackground,
        b.dominated].getD i false := by
  obtain ⟨pre, mid, post, hbytes, hpre, hmid, -⟩ := Record.pieces hb final
  have hfield : fieldAt (r.bytes final) 14 2 = b.flags := by
    rw [hbytes]
    simpa [fieldAt_skip hpre, fieldAt_skip hmid, RecordBody.bytes, putInterval] using Nat.mod_eq_of_lt b.flags_lt
  rw [hfield, b.flags_eq, testBit_flagWord]

/-- The summary of a rest-day record: its day in byte 13, the list from byte 15 on (R199). -/
theorem Record.restDays_laid {r : Record} {port : Port} {change : ConfigChange} {day : BitVec 16}
    {list : List (BitVec 16)} (hb : r.offer.body = .config port change)
    (hsummary : change.summary = put2 day.toNat ++ putRestDays list) (final : Bool) :
    Laid (r.bytes final) [⟨4, 1, 5⟩, ⟨12, 1, change.code + 128 * portCode port⟩, ⟨13, 2, day.toNat⟩] ∧
      fieldAt (r.bytes final) 15 1 = list.length % 256 ∧
        ∀ i < 16, fieldAt (r.bytes final) (16 + 2 * i) 2 = (list.getD i 0xFFFF#16).toNat := by
  obtain ⟨pre, mid, post, hbytes, hpre, hmid, -⟩ := Record.pieces hb final
  obtain ⟨hlength, hdays⟩ := fieldAt_putRestDays list post
  have hrest : ∀ k w, fieldAt (r.bytes final) (k + 15) w = fieldAt (putRestDays list ++ post) k w := by
    intro k w
    rw [hbytes, show k + 15 = k + 2 + 1 + 7 + 1 + 4 from rfl, fieldAt_skip hpre, fieldAt_put1_skip, fieldAt_skip hmid]
    simp only [RecordBody.bytes, hsummary, List.append_assoc, fieldAt_put1_skip, fieldAt_put2_skip]
  refine ⟨?_, (hrest 0 1).trans hlength, fun i hi => ?_⟩
  · rw [hbytes]
    simp [fieldAt_skip hpre, fieldAt_skip hmid, RecordBody.bytes, RecordBody.kind, hsummary]
  · rw [show 16 + 2 * i = 2 * i + 1 + 15 by omega, hrest]
    exact hdays i hi

/-- The codes of a CALENDAR record stand two to a byte from byte 15 on (R199). -/
theorem Record.calendar_codes {r : Record} {port : Port} {profile : Profile} {first count : Nat}
    {codes : List ClassNo} {check : BitVec 16}
    (hb : r.offer.body = .config port (.calendar profile first count codes check)) (final : Bool) {i : Nat}
    (hi : i < 30) :
    fieldAt (r.bytes final) (15 + i) 1 =
      (((codes[2 * i]?).map Fin.val).getD 15 * 16 + ((codes[2 * i + 1]?).map Fin.val).getD 15) % 256 := by
  obtain ⟨pre, mid, post, hbytes, hpre, hmid, -⟩ := Record.pieces hb final
  rw [hbytes, show 15 + i = i + 1 + 1 + 1 + 7 + 1 + 4 by omega, fieldAt_skip hpre, fieldAt_put1_skip,
    fieldAt_skip hmid]
  simp only [RecordBody.bytes, ConfigChange.summary, List.append_assoc, fieldAt_put1_skip]
  exact fieldAt_putCodes hi codes _

/-- The rows of a CALENDAR record beside its codes (R199). -/
theorem Record.calendar_laid {r : Record} {port : Port} {profile : Profile} {first count : Nat}
    {codes : List ClassNo} {check : BitVec 16}
    (hb : r.offer.body = .config port (.calendar profile first count codes check)) (final : Bool) :
    Laid (r.bytes final)
        [⟨4, 1, 5⟩, ⟨12, 1, 2 + 128 * portCode port⟩, ⟨13, 1, profile.code * 128 + first⟩, ⟨14, 1, count⟩,
          ⟨45, 2, check.toNat⟩] ∧
      (r.bytes final).drop 47 = List.replicate 1 0 := by
  refine Record.laid hb (fun pre mid post hpre hmid => ?_) ?_
  · have hcheck := fieldAt_putCodes_skip 30 codes (put2 check.toNat ++ post) 0 2
    simpa [fieldAt_skip hpre, fieldAt_skip hmid, RecordBody.bytes, RecordBody.kind, ConfigChange.summary,
      ConfigChange.code] using hcheck
  · simp [RecordBody.bytes, ConfigChange.summary]

/-- The rows of a ROUTE record: the line, the stored and the earlier route, and the lock (R199). -/
theorem Record.route_laid {r : Record} {port : Port} {line : Line} {stored before : Route} {locked : Bool}
    (hb : r.offer.body = .config port (.route line stored before locked)) (final : Bool) :
    Laid (r.bytes final)
        [⟨4, 1, 5⟩, ⟨12, 1, 17 + 128 * portCode port⟩, ⟨13, 1, line.val⟩, ⟨14, 1, stored.source.code⟩,
          ⟨15, 1, stored.polarity.code⟩, ⟨16, 1, before.source.code⟩, ⟨17, 1, before.polarity.code⟩,
          ⟨18, 1, if locked then 1 else 0⟩] ∧
      (r.bytes final).drop 19 = List.replicate 29 0 := by
  refine Record.laid hb (fun pre mid post hpre hmid => ?_) ?_
  · simp [fieldAt_skip hpre, fieldAt_skip hmid, RecordBody.bytes, RecordBody.kind, ConfigChange.summary,
      ConfigChange.code, putRoute, boolCode]
  · simp [RecordBody.bytes, ConfigChange.summary]

/-- The rows of a capture (R185, R198). -/
theorem Capture.laid (k : Capture) (post : List Byte) :
    Laid (k.bytes ++ post)
      (timeFields 0 k.latchTime ++
        [⟨5, 1, k.link.code⟩, optionalField 6 1 (k.cls.map Fin.val),
          optionalField 7 2 (k.openTime.map fun t => t.day.toNat),
          optionalField 9 3 (k.openTime.map fun t => t.sod.val)] ++
        pairFields 12
          [k.planned, k.elapsed, k.nacc, k.runningLevel, k.lmax, k.backgroundLevel, some k.nq] ++
        [⟨26, 1, k.allowance.code⟩, optionalField 27 2 k.rs, ⟨29, 1, if k.eventOpen then 1 else 0⟩,
          optionalField 30 2 k.eventDuration, optionalField 32 1 (k.lastResult.map KeptResult.code),
          optionalField 33 2 (k.lastResult.bind KeptResult.level?)]) := by
  simp [Capture.bytes, timeFields, pairFields, optionalField, boolCode]

/-- Settles O60: the rows of each kind of record and of a capture, and the codes. -/
theorem recordsAndCapturesKeepTheirLayouts : Obligations.RecordsAndCapturesKeepTheirLayouts := by
  refine ⟨?_, ?_, rfl, rfl, rfl, rfl, rfl, fun _ => rfl, ⟨rfl, rfl, rfl⟩, rfl, ⟨rfl, rfl, rfl⟩, rfl⟩
  · rintro r final bytes rfl
    refine ⟨r.length_bytes final, r.header_laid final, ?_⟩
    cases hb : r.offer.body with
    | interval b =>
      refine ⟨(Record.laid hb (fun pre mid post hpre hmid => ?_) rfl).1, Record.interval_flags hb final⟩
      simp [fieldAt_skip hpre, fieldAt_skip hmid, RecordBody.bytes, RecordBody.kind, putInterval, pairFields,
        optionalField]
    | event b =>
      refine Record.laid hb (fun pre mid post hpre hmid => ?_) ?_
      · simp [fieldAt_skip hpre, fieldAt_skip hmid, RecordBody.bytes, RecordBody.kind, putEvent, timeFields, pairFields,
          optionalField]
      · simp [RecordBody.bytes, putEvent]
    | gap b =>
      refine Record.laid hb (fun pre mid post hpre hmid => ?_) ?_
      · simp [fieldAt_skip hpre, fieldAt_skip hmid, RecordBody.bytes, RecordBody.kind, putGap, timeFields,
          optionalField, boolCode]
      · simp [RecordBody.bytes, putGap]
    | prohibited b =>
      refine Record.laid hb (fun pre mid post hpre hmid => ?_) ?_
      · simp [fieldAt_skip hpre, fieldAt_skip hmid, RecordBody.bytes, RecordBody.kind, putProhibited, timeFields]
      · simp [RecordBody.bytes, putProhibited]
    | loss b =>
      refine Record.laid hb (fun pre mid post hpre hmid => ?_) ?_
      · simp [fieldAt_skip hpre, fieldAt_skip hmid, RecordBody.bytes, RecordBody.kind, putLoss, timeFields, pairFields,
          optionalField]
      · simp [RecordBody.bytes, putLoss]
    | config port change =>
      cases change with
      | calendar profile first count codes check =>
        obtain ⟨hrows, hunused⟩ := Record.calendar_laid hb final
        have hcodes : Laid (r.bytes final) ((List.range 30).map fun i =>
            ⟨15 + i, 1, ((codes[2 * i]?).map Fin.val).getD 15 * 16 + ((codes[2 * i + 1]?).map Fin.val).getD 15⟩) := by
          simpa only [Laid, List.forall_mem_map, List.mem_range, Nat.pow_one] using
            fun i hi => Record.calendar_codes hb final hi
        refine ⟨?_, hunused⟩
        simp only [laid_append, laid_cons, laid_nil, and_true] at hrows ⊢
        obtain ⟨hkind, hcode, hfirst, hcount, hcheck⟩ := hrows
        cases port <;> cases profile <;> exact ⟨⟨⟨⟨hkind, hcode⟩, hfirst, hcount⟩, hcodes⟩, hcheck⟩
      | restDayAdd day list => cases port <;> exact Record.restDays_laid hb rfl final
      | restDayDrop day list => cases port <;> exact Record.restDays_laid hb rfl final
      | route line stored before locked =>
        obtain ⟨hrows, hunused⟩ := Record.route_laid hb final
        refine ⟨?_, hunused⟩
        simp only [laid_append, laid_cons, laid_nil, and_true] at hrows ⊢
        obtain ⟨hkind, hcode, hline, hsource, hpolarity, hsource', hpolarity', hlocked⟩ := hrows
        refine ⟨⟨⟨⟨⟨hkind, ?_⟩, hline⟩, hsource, ?_⟩, hsource', ?_⟩, hlocked⟩
        · cases port <;> exact hcode
        · rcases stored with ⟨_, _ | _⟩ <;> exact hpolarity
        · rcases before with ⟨_, _ | _⟩ <;> exact hpolarity'
      | _ =>
        refine Record.laid hb (fun pre mid post hpre hmid => ?_) ?_
        · cases port <;>
            simp [fieldAt_skip hpre, fieldAt_skip hmid, RecordBody.bytes, RecordBody.kind, ConfigChange.summary,
              ConfigChange.code, portCode, timeFields, pairFields, optionalField, putClass, boolCode]
        · simp [RecordBody.bytes, ConfigChange.summary]
  · rintro k bytes rfl
    refine ⟨by simp [Capture.bytes], ?_⟩
    have hlaid := k.laid []
    rwa [List.append_nil] at hlaid

end Sys2Proof.Machine
end

section
/-! PROOFS. The head link: its counters, the frames it receives, and the SYNC. -/

namespace Sys2Proof.Machine

/-! ### CLEAR_COUNTERS (R31) -/

theorem channelSum_eq (s : State) (f : ChannelState → Nat) :
    channelSum s f = min 65535 ((List.finRange 8).map fun c => f (s.channel c)).sum := by
  rw [channelSum, Oct.toList_eq_map, List.map_map]
  rfl

theorem State.countersCleared_eq (s : State) :
    s.countersCleared =
      { s with
        headLink := { s.headLink with crc := 0, stray := 0 }
        channels := Oct.ofFn fun c => { s.channel c with late := 0, dup := 0 } } := rfl

/-- Settles O17: the rule clears the counters of the state it finds, whose sums are those before the command. -/
theorem clearCountersClearsOnlyCounters : Obligations.ClearCountersClearsOnlyCounters := by
  intro s h
  refine authorityCommand_answered h rfl (by decide) rfl ?_
  rw [channelSum_eq, channelSum_eq, State.countersCleared_eq]
  rfl

/-! ### The acceptance checks (R25 to R29) -/

theorem crcPasses_eq_false {frame : List Byte} :
    crcPasses frame = false ↔ frame.length < 3 ∨
      frame.drop (frame.length - 2) ≠ put2 (crc (frame.take (frame.length - 2))).toNat := by
  simp [crcPasses, imp_iff_not_or]

/-- Bytes with their CRC behind them pass the CRC check (R25, R196). -/
theorem crcPasses_append_crc {body : List Byte} (h : body ≠ []) : crcPasses (body ++ put2 (crc body).toNat) = true := by
  have hpos := List.length_pos_iff.2 h
  have hlen : (body ++ put2 (crc body).toNat).length - 2 = body.length := by simp
  simp only [crcPasses, hlen, List.drop_left, List.take_left, beq_self_eq_true, Bool.and_true, decide_eq_true_eq]
  simp only [List.length_append, length_put2]
  omega

theorem crcPasses_reportFrame (address tag : Byte) (level peak : BitVec 16) (flags : Byte) :
    crcPasses (reportFrame address tag level peak flags) = true :=
  crcPasses_append_crc (List.cons_ne_nil _ _)

/-- A byte of the body of a frame. -/
theorem argByte_append {body tail : List Byte} {i : Nat} (h : i < body.length) :
    argByte (body ++ tail) i = body.getD i 0 := by
  simp [argByte, List.getD_eq_getElem?_getD, List.getElem?_append_left h]

/-- A frame of a wrong type, length or address belongs to no channel (R26). -/
theorem frameChannel_stray {body : List Byte} (check : Nat)
    (h : body.length ≠ 8 ∨ body.getD 0 0 ≠ 0x52#8 ∨ body.getD 1 0 = 0 ∨ 8 < (body.getD 1 0).toNat) :
    frameChannel (body ++ put2 check) = none := by
  unfold frameChannel
  split
  · rename_i hreport
    obtain ⟨htype, hlength, haddress⟩ := hreport
    simp only [List.length_append, length_put2] at hlength
    rw [argByte_append (by omega)] at htype
    rw [arg1, argByte_append (by omega)] at haddress ⊢
    rcases h with h | h | h | h
    · omega
    · exact absurd htype h
    · rw [h] at haddress
      simp at haddress
    · exact finOf_eq_none.2 (by omega)
  · rfl

/-- What the checks read from a REPORT frame (R26, R195). -/
theorem reportFrame_fields (c : Channel) (tag : Byte) (level peak : BitVec 16) (flags : Byte) :
    frameChannel (reportFrame (BitVec.ofNat 8 (c.val + 1)) tag level peak flags) = some c ∧
      argByte (reportFrame (BitVec.ofNat 8 (c.val + 1)) tag level peak flags) 2 = tag ∧
      frameReport (reportFrame (BitVec.ofNat 8 (c.val + 1)) tag level peak flags) = ⟨level, peak, flags⟩ := by
  have hc := c.isLt
  have haddress : (BitVec.ofNat 8 (c.val + 1)).toNat = c.val + 1 := by
    rw [BitVec.toNat_ofNat]
    omega
  have hword : ∀ v : BitVec 16,
      BitVec.ofNat 16 ((BitVec.ofNat 8 (v.toNat / 256)).toNat * 256 + (BitVec.ofNat 8 v.toNat).toNat) = v := by
    intro v
    have hv := v.isLt
    apply BitVec.eq_of_toNat_eq
    simp only [BitVec.toNat_ofNat]
    omega
  refine ⟨?_, rfl, ?_⟩
  · have hread : arg1 (reportFrame (BitVec.ofNat 8 (c.val + 1)) tag level peak flags) 1 = c.val + 1 := haddress
    rw [frameChannel, hread, if_pos ⟨rfl, rfl, by omega⟩]
    exact finOf_val c
  · exact congrArg₂ (fun l p => (⟨l, p, flags⟩ : Report)) (hword level) (hword peak)

/-- The acceptance checks of a report for its channel, in their order (R27 to R29). -/
theorem acceptReport_table (syncTag : Option Byte) (tag : Byte) (report : Report) (ch : ChannelState) :
    (ch.link = .off → acceptReport syncTag tag report ch = ch) ∧
      (ch.link ≠ .off → syncTag ≠ some tag →
        acceptReport syncTag tag report ch = { ch with late := min 65535 (ch.late + 1) }) ∧
      (ch.link ≠ .off → syncTag = some tag → ch.held ≠ none →
        acceptReport syncTag tag report ch = { ch with dup := min 65535 (ch.dup + 1) }) ∧
      (ch.link ≠ .off → syncTag = some tag → ch.held = none →
        acceptReport syncTag tag report ch = { ch with held := some report }) := by
  unfold acceptReport
  refine ⟨fun hoff => ?_, fun hon htag => ?_, fun hon htag hheld => ?_, fun hon htag hheld => ?_⟩
  · rw [if_pos hoff]
  · rw [if_neg hon, if_pos htag, satInc16_eq]
  · rw [if_neg hon, if_neg (not_not.2 htag), if_pos (Option.isSome_iff_ne_none.2 hheld), satInc16_eq]
  · rw [if_neg hon, if_neg (not_not.2 htag), if_neg (by simp [hheld])]

theorem exec_frameReceived_deaf {s : State} (heard : List Byte) (h : s.nrstLow = true ∨ s.headLink.driverOn = true) :
    exec (.frameReceived heard) s = .next s := by
  rw [← Bool.or_eq_true] at h
  simp [exec, execFrameReceived, h]

/-- Where the controller listens, the frame in reception is ended and checked (R22, R25). -/
theorem exec_frameReceived {s : State} (heard : List Byte) (hnrst : s.nrstLow = false)
    (hdriver : s.headLink.driverOn = false) :
    exec (.frameReceived heard) s =
      .next (acceptFrame (s.headLink.inFrame ++ heard) { s with headLink := { s.headLink with inFrame := [] } }) := by
  simp [exec, execFrameReceived, hnrst, hdriver, endFrame]

/-- What becomes of a frame that belongs to no channel (R26). -/
theorem acceptFrame_stray {frame : List Byte} {s : State} (hcrc : crcPasses frame = true)
    (hchannel : frameChannel frame = none) :
    acceptFrame frame s = { s with headLink := { s.headLink with stray := satInc16 s.headLink.stray } } := by
  have hne : frame ≠ [] := by
    rintro rfl
    simp [crcPasses] at hcrc
  unfold acceptFrame
  rw [if_neg hne, if_neg (by simp [hcrc]), hchannel]

/-- A frame of a channel runs through the channel's own checks (R27 to R29). -/
theorem acceptFrame_channel_of {frame : List Byte} {s : State} {c : Channel} (hcrc : crcPasses frame = true)
    (hchannel : frameChannel frame = some c) :
    acceptFrame frame s =
      s.mapChannel c (acceptReport s.headLink.syncTag (argByte frame 2) (frameReport frame)) := by
  have hne : frame ≠ [] := by
    rintro rfl
    simp [crcPasses] at hcrc
  unfold acceptFrame
  rw [if_neg hne, if_neg (by simp [hcrc]), hchannel]

/-- Settles O36: a frame of each fate, by the check that decides it. -/
theorem framesRunThroughTheAcceptanceChecks : Obligations.FramesRunThroughTheAcceptanceChecks := by
  rintro s heard frame hframe
  refine ⟨exec_frameReceived_deaf heard, fun hnrst hdriver => ?_⟩
  rw [exec_frameReceived heard hnrst hdriver, hframe]
  refine ⟨?_, fun hne hbad => ?_, ?_, ?_⟩
  · rintro rfl
    have hin := (List.append_eq_nil_iff.1 hframe).1
    rw [acceptFrame, if_pos rfl, ← hin]
  · rw [acceptFrame, if_neg hne, if_pos (crcPasses_eq_false.2 hbad), satInc16_eq]
  · rintro body hbody rfl hstray
    rw [acceptFrame_stray (crcPasses_append_crc hbody) (frameChannel_stray _ hstray), satInc16_eq]
  · rintro c tag level peak flags rfl
    obtain ⟨hchannel, htag, hreport⟩ := reportFrame_fields c tag level peak flags
    rw [acceptFrame_channel_of (crcPasses_reportFrame _ _ _ _ _) hchannel, htag, hreport]
    exact ⟨_, rfl, acceptReport_table _ _ _ _⟩

/-! ### The SYNC (R22, R23) -/

/-- A boundary that ends a slice ends the frame in reception, as an arrival taken before it would (R22). -/
theorem frameAtBoundary_listening {heard : List Byte} {s : State} (hdriver : s.headLink.driverOn = false)
    (hslice : s.timebase.slice ≠ none) : frameAtBoundary heard s = endFrame heard s := by
  simp [frameAtBoundary, hdriver, Option.isSome_iff_ne_none, hslice]

/-- While the driver is enabled nothing is in reception (R22). -/
theorem frameAtBoundary_driving {heard : List Byte} {s : State} (hdriver : s.headLink.driverOn = true) :
    frameAtBoundary heard s = s := by
  simp [frameAtBoundary, hdriver]

/-- At a first boundary the reception goes on (log entry 18). -/
theorem frameAtBoundary_first {heard : List Byte} {s : State} (hdriver : s.headLink.driverOn = false)
    (hslice : s.timebase.slice = none) :
    frameAtBoundary heard s = { s with headLink := { s.headLink with inFrame := s.headLink.inFrame ++ heard } } := by
  simp [frameAtBoundary, hdriver, hslice]

@[simp] theorem acceptFrame_inFrame (frame : List Byte) (s : State) :
    (acceptFrame frame s).headLink.inFrame = s.headLink.inFrame := by
  unfold acceptFrame
  repeat' split
  all_goals rfl

@[simp] theorem endFrame_inFrame (heard : List Byte) (s : State) : (endFrame heard s).headLink.inFrame = [] := by
  simp [endFrame]

@[simp] theorem endFrame_driverOn (heard : List Byte) (s : State) :
    (endFrame heard s).headLink.driverOn = s.headLink.driverOn := by
  unfold endFrame acceptFrame
  repeat' split
  all_goals rfl

/-- With nothing in reception and nothing heard no frame ends. -/
theorem endFrame_nil {s : State} (h : s.headLink.inFrame = []) : endFrame [] s = s := by
  rw [endFrame, h, acceptFrame, List.append_nil, if_pos rfl, ← h]

/-- The SYNC of a boundary that ends a slice (R22, R23). -/
theorem HeadLink.atBoundary_sync (h : HeadLink) (ended : Tag) (timed : Option Timed) :
    (h.atBoundary (some ended) timed).driverOn = true ∧
      (h.atBoundary (some ended) timed).syncTag = some (BitVec.ofNat 8 ended.time.sod.val) := ⟨rfl, rfl⟩

/-- A boundary's own work leaves the reception, and CRC and STRAY but for a RESTART, which sets them to 0 (R30). -/
theorem HeadLink.atBoundary_frame (h : HeadLink) (slice : Option Tag) (timed : Option Timed) :
    (h.atBoundary slice timed).inFrame = h.inFrame ∧
      (h.atBoundary slice timed).crc = (if timed = some .restart then 0 else h.crc) ∧
      (h.atBoundary slice timed).stray = (if timed = some .restart then 0 else h.stray) := by
  unfold HeadLink.atBoundary
  cases slice <;> split <;> exact ⟨rfl, rfl, rfl⟩

/-- Settles O37: the SYNC of the ended slice, the frame that it ends, and the end of the SYNC. -/
theorem syncNamesTheSliceThatEnded : Obligations.SyncNamesTheSliceThatEnded := by
  refine ⟨fun s heard ended hclock hslice => ?_, fun s heard hclock hslice hdriver => ?_, fun s => rfl⟩
  · have hhead : (boundaryWork (frameAtBoundary heard s)).headLink =
        (frameAtBoundary heard s).headLink.atBoundary (some ended) s.pendingTimed := by simp [hslice]
    obtain ⟨hdriverOn, hsyncTag⟩ :=
      (frameAtBoundary heard s).headLink.atBoundary_sync ended s.pendingTimed
    rw [← hhead] at hdriverOn hsyncTag
    refine ⟨_, exec_boundary heard hclock, hdriverOn,
      ⟨BitVec.ofNat 8 ended.time.sod.val, BitVec.toNat_ofNat _ _, hsyncTag, ?_⟩,
      fun hdriver => ⟨?_, endFrame heard s, ?_, ?_⟩, fun hdriver => ?_⟩
    · rw [hbTx, hdriverOn, hsyncTag]
      rfl
    · rw [hhead, (HeadLink.atBoundary_frame _ _ _).1, frameAtBoundary_listening hdriver (by simp [hslice]),
        endFrame_inFrame]
    · have hnrst : s.nrstLow = false := by
        simp only [State.clockRuns, Bool.and_eq_true, Bool.not_eq_true'] at hclock
        exact hclock.2
      exact exec_frameReceived heard hnrst hdriver
    · rw [exec_boundary heard hclock, exec_boundary [] (by simpa [State.clockRuns] using hclock),
        frameAtBoundary_listening hdriver (by simp [hslice]),
        frameAtBoundary_listening (by simp [hdriver]) (by simp [hslice]), endFrame_nil (endFrame_inFrame heard s)]
    · rw [exec_boundary heard hclock, exec_boundary [] hclock, frameAtBoundary_driving hdriver,
        frameAtBoundary_driving hdriver]
  · rw [exec_boundary heard hclock, exec_boundary [] (by exact hclock), frameAtBoundary_first hdriver hslice,
      frameAtBoundary_first (by exact hdriver) (by exact hslice), List.append_nil]

end Sys2Proof.Machine
end

section
/-! PROOFS. What a boundary leaves as it stands, and its one batch. -/

namespace Sys2Proof.Machine

/-! ### The frame of a boundary -/

/-- The completion of a timed command touches only the ports (R179, R182). -/
theorem completeTimed_frame (before : State) (timed : Option Timed) (s : State) :
    completeTimed before timed s =
      { s with
        site := (completeTimed before timed s).site
        authority := (completeTimed before timed s).authority } := by
  unfold completeTimed
  split <;> rfl

/-- The parts of the state that the work of a boundary can touch. -/
theorem boundaryWork_frame (s : State) :
    boundaryWork s =
      { s with
        timebase := (boundaryWork s).timebase
        headLink := (boundaryWork s).headLink
        channels := (boundaryWork s).channels
        activity := (boundaryWork s).activity
        log := (boundaryWork s).log
        site := (boundaryWork s).site
        authority := (boundaryWork s).authority } := by
  rw [boundaryWork_timebase, boundaryWork_headLink, boundaryWork_channels, boundaryWork_activity, boundaryWork_log]
  exact completeTimed_frame _ _ _

/-- A boundary does not change the calendar's settings. -/
theorem Timebase.atBoundary_frame (tb : Timebase) (timed : Option Timed) :
    tb.atBoundary timed =
      { tb.atBoundary timed with
        workingSlots := tb.workingSlots
        restSlots := tb.restSlots
        restWeekdays := tb.restWeekdays
        defaultClass := tb.defaultClass
        calendarEnable := tb.calendarEnable
        classes := tb.classes } := by
  unfold Timebase.atBoundary
  rw [tb.toNextSlice_frame timed]
  rfl

/-- Of the site port a boundary can touch only the snapshot slots (R182). -/
theorem boundaryWork_site_frame (s : State) :
    (boundaryWork s).site = { s.site with slots := (boundaryWork s).site.slots } ∧
      (s.pendingTimed ≠ some .restart → (boundaryWork s).site = s.site) := by
  rw [boundaryWork_site]
  refine ⟨?_, fun h => if_neg h⟩
  split <;> rfl

/-- Of the authority port a boundary can touch the command state and COLLIDED, where a timed command completes (R179),
and the snapshot slots, where it is RESTART (R182). -/
theorem boundaryWork_authority_frame (s : State) :
    (boundaryWork s).authority =
        { s.authority with
          command := (boundaryWork s).authority.command
          collided := (boundaryWork s).authority.collided
          slots := (boundaryWork s).authority.slots } ∧
      (s.pendingTimed ≠ some .restart → (boundaryWork s).authority.slots = s.authority.slots) ∧
      (s.pendingTimed = none → (boundaryWork s).authority = s.authority) := by
  rw [boundaryWork_authority]
  split
  · exact ⟨rfl, fun _ => rfl, fun _ => rfl⟩
  · rename_i h
    exact ⟨rfl, fun hne => absurd h hne, fun hnone => by simp [h] at hnone⟩
  · rename_i t _ h
    exact ⟨rfl, fun _ => rfl, fun hnone => by simp [h] at hnone⟩

/-- What a boundary leaves of the whole state, from the state before its frame is ended. -/
theorem boundary_frame (heard : List Byte) (s : State) :
    boundaryWork (frameAtBoundary heard s) =
      { s with
        timebase :=
          { (boundaryWork (frameAtBoundary heard s)).timebase with
            workingSlots := s.timebase.workingSlots
            restSlots := s.timebase.restSlots
            restWeekdays := s.timebase.restWeekdays
            defaultClass := s.timebase.defaultClass
            calendarEnable := s.timebase.calendarEnable
            classes := s.timebase.classes }
        headLink := (boundaryWork (frameAtBoundary heard s)).headLink
        channels := (boundaryWork (frameAtBoundary heard s)).channels
        activity :=
          { (boundaryWork (frameAtBoundary heard s)).activity with
            level := s.activity.level
            unseen := s.activity.unseen
            enable := s.activity.enable }
        log := (boundaryWork (frameAtBoundary heard s)).log
        site := { s.site with slots := (boundaryWork (frameAtBoundary heard s)).site.slots }
        authority :=
          { s.authority with
            command := (boundaryWork (frameAtBoundary heard s)).authority.command
            collided := (boundaryWork (frameAtBoundary heard s)).authority.collided
            slots := (boundaryWork (frameAtBoundary heard s)).authority.slots } } := by
  have htimebase := s.timebase.atBoundary_frame s.pendingTimed
  obtain ⟨hlevel, hunseen, henable⟩ :=
    s.activity.atBoundary_frame s.timebase.slice s.pendingTimed s.settings.quietHold
  have hsite := (boundaryWork_site_frame (frameAtBoundary heard s)).1
  have hauthority := (boundaryWork_authority_frame (frameAtBoundary heard s)).1
  rw [frameAtBoundary_site] at hsite
  rw [frameAtBoundary_authority] at hauthority
  refine (boundaryWork_frame _).trans ?_
  rw [State.mk.injEq]
  refine ⟨frameAtBoundary_nrstLow heard s, frameAtBoundary_crystalRunning heard s, ?_, rfl, rfl, ?_,
    frameAtBoundary_settings heard s, rfl, frameAtBoundary_matrix heard s, hsite, hauthority,
    frameAtBoundary_shortHighs heard s, frameAtBoundary_pending heard s⟩
  · rw [boundaryWork_timebase, frameAtBoundary_timebase, frameAtBoundary_pendingTimed]
    exact htimebase
  · rw [boundaryWork_activity, frameAtBoundary_activity, frameAtBoundary_timebase, frameAtBoundary_pendingTimed,
      frameAtBoundary_settings, ← hlevel, ← hunseen, ← henable]

/-- Where the boundary ends no frame, CRC and STRAY stay (R30). -/
theorem frameAtBoundary_counts {heard : List Byte} {s : State}
    (h : s.headLink.driverOn = true ∨ s.headLink.inFrame ++ heard = []) :
    (frameAtBoundary heard s).headLink.crc = s.headLink.crc ∧
      (frameAtBoundary heard s).headLink.stray = s.headLink.stray := by
  rcases h with hdriver | hempty
  · rw [frameAtBoundary_driving hdriver]
    exact ⟨rfl, rfl⟩
  · unfold frameAtBoundary
    split
    · exact ⟨rfl, rfl⟩
    · split
      · rw [endFrame, hempty, acceptFrame, if_pos rfl]
        exact ⟨rfl, rfl⟩
      · exact ⟨rfl, rfl⟩

/-! ### The batch (R153) -/

theorem timedOffer_kind (s : State) (now : Time) (t : Timed) : (timedOffer s now t).body.kind = 5 := by
  cases t <;> rfl

theorem atBoundary_offer_kind {a : Activity} {slice : Option Tag} {timed : Option Timed} {quietHold : Nat} {o : Offer}
    (h : (a.atBoundary slice timed quietHold).2 = some o) : o.body.kind = 4 := by
  obtain ⟨-, r, hr⟩ := Activity.atBoundary_offer h
  rw [hr]
  rfl

/-- The offers of a boundary are no LOSS records, their places go up to that of the CONFIG record, and that one takes a
timed command (R153). -/
theorem batch_kinds {heard : List Byte} {s : State} {timed : Option Timed} {now : Time} {o : Offer}
    (h : o ∈ batch (frameAtBoundary heard s) timed now) :
    o.body.kind ≠ 6 ∧ batchPlace o ≤ 33 ∧ (timed = none → o.body.kind ≠ 5) := by
  rcases mem_batch.1 h with ⟨c, hc⟩ | hep | ⟨t, ht, rfl⟩
  · have hkind := (channelWork_record hc).2
    have hplace := ((channelWork_ordered heard s timed c).2 o hc).2
    have hlt := c.isLt
    exact ⟨by omega, by omega, fun _ => by omega⟩
  · obtain ⟨-, r, hr⟩ := Activity.atBoundary_offer hep
    simp [hr, batchPlace, RecordBody.kind]
  · rw [timedOffer_kind, batchPlace_timed]
    exact ⟨by decide, le_rfl, fun hnone => by simp [hnone] at ht⟩

/-- With nothing pending every INTERVAL record of a boundary is of a natural close (R59, R65). -/
theorem batch_intervals_natural {heard : List Byte} {s : State} {now : Time} {o : Offer} {r : IntervalRecord}
    (h : o ∈ batch (frameAtBoundary heard s) none now) (ho : o.body = .interval r) :
    r.cause = .length ∨ r.cause = .classChange := by
  have hkind : o.body.kind = 1 := by rw [ho]; rfl
  rcases mem_batch.1 h with ⟨c, hc⟩ | hep | ⟨t, ht, -⟩
  · obtain ⟨hgap, hevent, -, -⟩ := channelWork_records heard s none c
    obtain ⟨hnatural, -, hforced⟩ := channelWork_intervals heard s none c
    rcases ChannelWork.mem_records.1 hc with hr | hr | hr | hr
    · have := (hgap o hr).2
      omega
    · have := (hevent o hr).2
      omega
    · obtain ⟨time, r', rfl, hcause⟩ := hnatural o hr
      obtain rfl := RecordBody.interval.inj ho
      exact hcause
    · rw [hforced rfl] at hr
      cases hr
  · rw [atBoundary_offer_kind hep] at hkind
    cases hkind
  · cases ht

/-- A batch whose places go up to `n` holds at most one record for each place (R153). -/
theorem BatchOrdered.length_le {offers : List Offer} {n : Nat} (h : BatchOrdered offers)
    (hn : ∀ o ∈ offers, batchPlace o ≤ n) : offers.length ≤ n + 1 := by
  have hnodup : (offers.map batchPlace).Nodup := List.pairwise_map.2 (h.imp Nat.ne_of_lt)
  have hsub : offers.map batchPlace ⊆ List.range (n + 1) := by
    intro p hp
    obtain ⟨o, ho, rfl⟩ := List.mem_map.1 hp
    exact List.mem_range.2 (Nat.lt_succ_of_le (hn o ho))
  simpa using (hnodup.subperm hsub).length_le

/-- Settles O43: the frame of a boundary, and the order, the size and the kinds of its batch. -/
theorem boundaryOffersOneBatchInOrder : Obligations.BoundaryOffersOneBatchInOrder := by
  intro s heard hclock
  obtain ⟨-, hsite⟩ := boundaryWork_site_frame (frameAtBoundary heard s)
  obtain ⟨-, hslots, hauthority⟩ := boundaryWork_authority_frame (frameAtBoundary heard s)
  obtain ⟨-, hcrc, hstray⟩ :=
    (frameAtBoundary heard s).headLink.atBoundary_frame s.timebase.slice s.pendingTimed
  have hhead : (boundaryWork (frameAtBoundary heard s)).headLink =
      (frameAtBoundary heard s).headLink.atBoundary s.timebase.slice s.pendingTimed := by simp
  have hordered := batch_ordered heard s s.pendingTimed (boundaryWork (frameAtBoundary heard s)).timebase.time
  rw [frameAtBoundary_pendingTimed] at hsite hslots hauthority
  rw [frameAtBoundary_site] at hsite
  rw [frameAtBoundary_authority] at hslots hauthority
  have hcounts : s.pendingTimed ≠ some .restart →
      (boundaryWork (frameAtBoundary heard s)).headLink.crc = (frameAtBoundary heard s).headLink.crc ∧
        (boundaryWork (frameAtBoundary heard s)).headLink.stray = (frameAtBoundary heard s).headLink.stray := by
    intro hne
    rw [hhead, hcrc, hstray, if_neg hne, if_neg hne]
    exact ⟨rfl, rfl⟩
  refine ⟨_, exec_boundary heard hclock, boundary_frame heard s, fun hne => ⟨hsite hne, hslots hne⟩, hauthority,
    hcounts, fun hne hquiet => ?_, _, boundaryWork_batch heard s, hordered, hordered.length_le fun o ho => (batch_kinds ho).2.1,
    fun o ho => (batch_kinds ho).1, fun hnone o ho => ⟨(batch_kinds ho).2.2 hnone, fun r hr => ?_⟩⟩
  · obtain ⟨hcrc', hstray'⟩ := frameAtBoundary_counts hquiet
    rw [(hcounts hne).1, (hcounts hne).2]
    exact ⟨hcrc', hstray'⟩
  · rw [hnone] at ho
    exact batch_intervals_natural ho hr

end Sys2Proof.Machine
end

section
/-! PROOFS. Timed commands at their boundary, against the same boundary with nothing pending. -/

namespace Sys2Proof.Machine

/-! ### The boundary of a timed command -/

/-- A timed command that closes no episode leaves the whole of the activity monitor's work as it is with nothing pending
(R114). -/
theorem Activity.atBoundary_unforced {timed : Option Timed} (h : episodeCause timed = none) (a : Activity)
    (slice : Option Tag) (quietHold : Nat) :
    a.atBoundary slice timed quietHold = a.atBoundary slice none quietHold := by
  cases timed with
  | none => rfl
  | some t =>
    cases t with
    | setTime => cases h
    | restart => cases h
    | cut => rfl
    | channelOn => rfl
    | channelOff => rfl

/-- With nothing pending a boundary's work on the activity monitor is that of its slice end. -/
theorem boundaryWork_withoutTimed_activity (heard : List Byte) (s : State) :
    (boundaryWork (frameAtBoundary heard s.withoutTimed)).activity =
      (s.activity.atBoundary s.timebase.slice none s.settings.quietHold).1 := by
  rw [boundaryWork_activity, frameAtBoundary_activity, frameAtBoundary_timebase, frameAtBoundary_pendingTimed,
    frameAtBoundary_settings]
  rfl

theorem boundary_activity {heard : List Byte} {s : State} {timed : Option Timed} (h : s.pendingTimed = timed) :
    (boundaryWork (frameAtBoundary heard s)).activity =
      (s.activity.atBoundary s.timebase.slice timed s.settings.quietHold).1 := by
  simp [h]

/-- A channel after the boundary of a timed command. -/
theorem boundary_channel_timed {heard : List Byte} {s : State} {t : Timed} (h : s.pendingTimed = some t) (c : Channel) :
    (boundaryWork (frameAtBoundary heard s)).channel c = (channelWork (frameAtBoundary heard s) (some t) c).ch := by
  rw [boundaryWork_channel, frameAtBoundary_pendingTimed, h]

/-- The batch of the boundary of a timed command: it stands in its order, with the CONFIG record last (R153, R167). -/
theorem boundary_batch_timed {heard : List Byte} {s : State} {t : Timed} (h : s.pendingTimed = some t) :
    let now := (boundaryWork (frameAtBoundary heard s)).timebase.time
    let offers := batch (frameAtBoundary heard s) (some t) now
    (boundaryWork (frameAtBoundary heard s)).log = s.log.takeAll now offers ∧ BatchOrdered offers ∧
      offers.getLast? = some (timedOffer (frameAtBoundary heard s) now t) := by
  refine ⟨?_, batch_ordered heard s (some t) _, batch_getLast? _ _ _⟩
  rw [← h]
  exact boundaryWork_batch heard s

/-- A timed command completes with OK and its data, COLLIDED copied into the response and cleared (R175, R179). -/
theorem boundary_completes {heard : List Byte} {s : State} {t : Timed} (h : s.pendingTimed = some t) :
    (boundaryWork (frameAtBoundary heard s)).authority.collided = false ∧
      (boundaryWork (frameAtBoundary heard s)).authority.command =
        .done ⟨.ok, s.authority.collided, timedData (frameAtBoundary heard s) t⟩ := by
  rw [boundaryWork_authority, frameAtBoundary_pendingTimed, frameAtBoundary_authority, h]
  cases t <;> exact ⟨rfl, rfl⟩

/-- Beside the CONFIG record, a timed command that closes no episode offers what the boundary offers with nothing
pending and what it adds to the records of each channel's deadline. -/
theorem mem_batch_added {heard : List Byte} {s : State} {timed : Option Timed} {now : Time}
    {added : Channel → Offer → Prop} (hcause : episodeCause timed = none)
    (hadded : ∀ c o, o ∈ (channelWork (frameAtBoundary heard s) timed c).records ↔
      o ∈ (deadline (frameAtBoundary heard s) c).records ∨ added c o)
    {o : Offer} (ho : o.body.kind ≠ 5) :
    o ∈ batch (frameAtBoundary heard s) timed now ↔
      o ∈ batch (frameAtBoundary heard s.withoutTimed) none
          (boundaryWork (frameAtBoundary heard s.withoutTimed)).timebase.time ∨
        ∃ c, added c o := by
  have hconfig : ¬∃ t, timed = some t ∧ o = timedOffer (frameAtBoundary heard s) now t := by
    rintro ⟨t, -, rfl⟩
    exact ho (timedOffer_kind _ _ _)
  rw [mem_batch, mem_batch_withoutTimed, frameAtBoundary_activity, frameAtBoundary_timebase, frameAtBoundary_settings,
    Activity.atBoundary_unforced hcause, or_iff_left hconfig]
  simp only [hadded, exists_or]
  exact or_right_comm

/-! ### CHANNEL_ON and CHANNEL_OFF (R38, R39) -/

theorem channelWork_channelOn (s : State) (n c : Channel) :
    channelWork s (some (.channelOn n)) c =
      if c = n then { deadline s c with ch := (deadline s c).ch.switchOn } else deadline s c := rfl

theorem channelWork_channelOff (s : State) (n c : Channel) :
    channelWork s (some (.channelOff n)) c =
      if c = n then
        { (deadline s c).closeAll c .channelOff with ch := ((deadline s c).closeAll c .channelOff).ch.switchOff }
      else deadline s c := rfl

/-- CHANNEL_ON offers no record of a channel. -/
theorem channelOn_records (s : State) (n c : Channel) :
    (channelWork s (some (.channelOn n)) c).records = (deadline s c).records := by
  rw [channelWork_channelOn]
  split <;> rfl

/-- CHANNEL_OFF offers the records of its channel's forced closes (R65, R69, R90, R125). -/
theorem channelOff_records (heard : List Byte) (s : State) (n c : Channel) (o : Offer) :
    o ∈ (channelWork (frameAtBoundary heard s) (some (.channelOff n)) c).records ↔
      o ∈ (deadline (frameAtBoundary heard s) c).records ∨
        c = n ∧ o ∈ forcedRecords c (deadline (frameAtBoundary heard s) c).ch .channelOff := by
  rw [channelWork_channelOff]
  by_cases hc : c = n
  · rw [if_pos hc, and_iff_right hc]
    exact ChannelWork.closeAll_records (deadline_unforced heard s c) c .channelOff o
  · rw [if_neg hc]
    simp [hc]

/-- The channel that CHANNEL_OFF leaves (R39, R106). -/
theorem channelOff_ch (s : State) (c : Channel) :
    (channelWork s (some (.channelOff c)) c).ch =
      { (deadline s c).ch with
        link := .off
        acquire := 0
        miss := 0
        held := none
        interval := none
        gap := none
        event := none
        prev := none
        background := ⟨none, 0⟩ } := by
  rw [channelWork_channelOff, if_pos rfl, ChannelWork.closeAll_ch]
  rfl

/-! ### CUT (R66, R67) -/

/-- After the deadline an interval is open exactly where one was open before or a result is handed on (R56, R58). -/
theorem deadline_interval_ne_none (heard : List Byte) (s : State) (c : Channel) :
    (deadline (frameAtBoundary heard s) c).ch.interval ≠ none ↔
      (s.channel c).interval ≠ none ∨ s.handedOn heard c ≠ none := by
  rcases deadline_cases heard s c with ⟨hnone, ch, hd, hch⟩ | ⟨ended, r, -, -, hr, -, hd⟩
  · have hinterval : ch.interval = (s.channel c).interval := by
      rcases hch with rfl | rfl
      · exact frameAtBoundary_channel_interval heard s c
      · rw [deadlineLink_frame]
        exact frameAtBoundary_channel_interval heard s c
    rw [hd, hnone]
    simp [ChannelWork.start, hinterval]
  · rw [hd, hr]
    simpa using Option.isSome_iff_ne_none.1 (account_interval_isSome _ _ _ _)

/-- The channels that a CUT closes: those of its mask that are not OFF and have an interval open at its boundary
(R66). -/
theorem member_cutSet {s : State} {mask : BitVec 8} {c : Channel} :
    member (cutSet s mask) c = true ↔
      member mask c = true ∧ (deadline s c).ch.link ≠ .off ∧ (deadline s c).ch.interval ≠ none := by
  simp only [cutSet, member_setOf, Bool.and_eq_true, ChannelState.enabled_eq_true, Option.isSome_iff_ne_none]

theorem channelWork_cut (s : State) (mask : BitVec 8) (c : Channel) :
    channelWork s (some (.cut mask)) c = if member mask c then (deadline s c).cut c else deadline s c := rfl

/-- A CUT does its work on the channels that it closes, and none on any other (R66). -/
theorem channelWork_cut_closed {s : State} {mask : BitVec 8} {c : Channel} :
    (member (cutSet s mask) c = true → channelWork s (some (.cut mask)) c = (deadline s c).cut c) ∧
      (member (cutSet s mask) c = false → channelWork s (some (.cut mask)) c = deadline s c) := by
  refine ⟨fun h => ?_, fun h => ?_⟩
  · rw [channelWork_cut, if_pos (member_cutSet.1 h).1]
  · rw [channelWork_cut]
    split
    · rename_i hmask
      rw [← Bool.not_eq_true, member_cutSet] at h
      rcases (deadline s c).cut_cases c with ⟨-, hcut⟩ | ⟨iv, hon, hiv, -⟩
      · exact hcut
      · exact absurd ⟨hmask, hon, by simp [hiv]⟩ h
    · rfl

/-- The channel that a CUT closes, with its open gap run left without a home interval (R67). -/
theorem cut_ch {s : State} {mask : BitVec 8} {c : Channel} (h : member (cutSet s mask) c = true) :
    (channelWork s (some (.cut mask)) c).ch =
      { (deadline s c).ch with
        interval := none
        event := none
        gap := (deadline s c).ch.gap.map fun g => { g with homeOpen := false } } := by
  obtain ⟨-, hon, hopen⟩ := member_cutSet.1 h
  rw [channelWork_cut_closed.1 h]
  rcases (deadline s c).cut_cases c with ⟨hoff | hnone, -⟩ | ⟨_, -, -, hch, -⟩
  · exact absurd hoff hon
  · exact absurd hnone hopen
  · rw [hch]
    rfl

/-- A CUT offers the records of the intervals and events that it closes, and of no gap run (R66, R67). -/
theorem cut_records (heard : List Byte) (s : State) (mask : BitVec 8) (c : Channel) (o : Offer) :
    o ∈ (channelWork (frameAtBoundary heard s) (some (.cut mask)) c).records ↔
      o ∈ (deadline (frameAtBoundary heard s) c).records ∨
        member (cutSet (frameAtBoundary heard s) mask) c = true ∧
          o ∈ forcedRecords c { (deadline (frameAtBoundary heard s) c).ch with gap := none } .cut := by
  cases h : member (cutSet (frameAtBoundary heard s) mask) c with
  | false =>
    rw [channelWork_cut_closed.2 h]
    simp
  | true =>
    obtain ⟨-, hon, hopen⟩ := member_cutSet.1 h
    rw [channelWork_cut_closed.1 h, ChannelWork.cut_records (deadline_unforced heard s c) c hon hopen]
    simp

/-- The forced close of a channel with an open interval offers its INTERVAL record with that cause (R65, R77). -/
theorem exists_forcedInterval {c : Channel} {ch : ChannelState} {cause : Cause} (h : ch.interval ≠ none) :
    ∃ (time : Time) (r : IntervalRecord), r.cause = cause ∧ ⟨some c, time, .interval r⟩ ∈ forcedRecords c ch cause := by
  obtain ⟨iv, hiv⟩ := Option.ne_none_iff_exists'.1 h
  exact ⟨iv.openTime, intervalRecord iv cause, rfl, by simp [forcedRecords, forcedInterval, hiv]⟩

/-- Settles O50: each command's channels, its completion and its batch, against the boundary with nothing pending. -/
theorem timedCommandsTakeEffectAtTheBoundary : Obligations.TimedCommandsTakeEffectAtTheBoundary := by
  intro s heard hclock
  have hu := boundaryWork_withoutTimed_channel heard s
  refine ⟨_, _, exec_boundary heard (s := s.withoutTimed) hclock, boundaryWork_batch heard s.withoutTimed,
    fun c hp => ?_, fun c hp => ?_, fun mask hp => ?_⟩
  · obtain ⟨hcollided, hcommand⟩ := boundary_completes (heard := heard) hp
    obtain ⟨hlog, hordered, hlast⟩ := boundary_batch_timed (heard := heard) hp
    refine ⟨_, exec_boundary heard hclock, ?_, ?_, hcollided, hcommand, _, hlog, hordered, hlast, fun d hd => ?_,
      fun o ho => ?_⟩
    · rw [boundary_channel_timed hp, hu, channelWork_channelOn, if_pos rfl]
      rfl
    · rw [boundary_activity hp, boundaryWork_withoutTimed_activity, Activity.atBoundary_unforced rfl]
    · rw [boundary_channel_timed hp, hu, channelWork_channelOn, if_neg hd]
    · rw [mem_batch_added (added := fun _ _ => False) rfl (by simp [channelOn_records]) ho,
        or_iff_left fun ⟨_, h⟩ => h, withoutTimed_pendingTimed]
  · obtain ⟨hcollided, hcommand⟩ := boundary_completes (heard := heard) hp
    obtain ⟨hlog, hordered, hlast⟩ := boundary_batch_timed (heard := heard) hp
    obtain ⟨hlate, hdup⟩ := deadline_counts heard s c
    have hch := (boundary_channel_timed (heard := heard) hp c).trans (channelOff_ch _ c)
    rw [← hu c] at hlate hdup hch
    refine ⟨_, exec_boundary heard hclock, hch, ?_, ?_, ?_, hcollided, hcommand, _, hlog, hordered, ?_, fun d hd => ?_,
      fun o ho => ?_⟩
    · rw [hch]
      exact hlate
    · rw [hch]
      exact hdup
    · rw [boundary_activity hp, boundaryWork_withoutTimed_activity, Activity.atBoundary_unforced rfl]
    · rw [hlast, hu c]
      rfl
    · rw [boundary_channel_timed hp, hu, channelWork_channelOff, if_neg hd]
    · rw [mem_batch_added rfl (channelOff_records heard s c) ho, exists_eq_left, hu c, withoutTimed_pendingTimed]
  · obtain ⟨hcollided, hcommand⟩ := boundary_completes (heard := heard) hp
    obtain ⟨hlog, hordered, hlast⟩ := boundary_batch_timed (heard := heard) hp
    refine ⟨_, cutSet (frameAtBoundary heard s) mask, exec_boundary heard hclock, ?_, hcollided, hcommand, fun c => ?_,
      fun c hc => ?_, _, hlog, hordered, fun c hc => ?_, hlast, fun c hc => ?_, fun o ho => ?_⟩
    · rw [boundary_activity hp, boundaryWork_withoutTimed_activity, Activity.atBoundary_unforced rfl]
    · rw [member_cutSet, deadline_interval_ne_none, ne_eq, deadline_off]
    · rw [boundary_channel_timed hp, hu, cut_ch hc]
    · obtain ⟨time, r, hcause, hr⟩ :=
        exists_forcedInterval (c := c) (ch := { (deadline (frameAtBoundary heard s) c).ch with gap := none })
          (cause := .cut) (member_cutSet.1 hc).2.2
      exact ⟨time, r, hcause, mem_batch.2 (.inl ⟨c, (cut_records heard s mask c _).2 (.inr ⟨hc, hr⟩)⟩)⟩
    · rw [boundary_channel_timed hp, hu, channelWork_cut_closed.2 hc]
    · simp only [mem_batch_added rfl (cut_records heard s mask) ho, hu, withoutTimed_pendingTimed]

end Sys2Proof.Machine
end

section
/-! PROOFS. RESTART at its boundary. -/

namespace Sys2Proof.Machine

/-- The channel that RESTART leaves (R30, R40, R70, R106). -/
theorem restart_ch (s : State) (c : Channel) :
    (channelWork s (some .restart) c).ch =
      { (deadline s c).ch with
        link := if (deadline s c).ch.link = .off then .off else .search
        acquire := 0
        miss := 0
        late := 0
        dup := 0
        interval := none
        gap := none
        event := none
        prev := none
        background := ⟨none, 0⟩ } := by
  change (((deadline s c).closeAll c .restart).ch).restarted = _
  rw [ChannelWork.closeAll_ch]
  rfl

/-- The boundary of a RESTART offers of a channel what its deadline offers and the records of the forced ends (R65, R90,
R125). -/
theorem mem_restart_batch_channel {heard : List Byte} {s : State} {now : Time} {c : Channel} {o : Offer}
    (hc : o.channel = some c) :
    o ∈ batch (frameAtBoundary heard s) (some .restart) now ↔
      o ∈ (deadline (frameAtBoundary heard s) c).records ∨
        o ∈ forcedRecords c (deadline (frameAtBoundary heard s) c).ch .restart := by
  rw [mem_batch_channel hc, or_iff_left]
  · exact ChannelWork.closeAll_records (deadline_unforced heard s c) c .restart o
  · rintro ⟨t, ht, rfl⟩
    obtain rfl := Option.some.inj ht
    cases hc

/-- The PROHIBITED records of a boundary are those that its work on the episode offers (R115). -/
theorem mem_batch_prohibited {heard : List Byte} {s : State} {timed : Option Timed} {now : Time} {o : Offer}
    (ho : o.body.kind = 4) :
    o ∈ batch (frameAtBoundary heard s) timed now ↔
      (s.activity.atBoundary s.timebase.slice timed s.settings.quietHold).2 = some o := by
  rw [mem_batch, frameAtBoundary_activity, frameAtBoundary_timebase, frameAtBoundary_settings]
  refine ⟨?_, fun h => .inr (.inl h)⟩
  rintro (⟨c, hc⟩ | hep | ⟨t, -, rfl⟩)
  · have hkind := (channelWork_record hc).2
    omega
  · exact hep
  · rw [timedOffer_kind] at ho
    cases ho

/-- A slice end that offers a record leaves no episode (R113). -/
theorem episodeStep_offer_closes {episode : Option Episode} {v : ActivityVerdict} {cls : ClassNo}
    (h : (episodeStep episode v cls).episode ≠ none) : (episodeStep episode v cls).offer = none := by
  unfold episodeStep at h ⊢
  repeat' split
  all_goals simp_all

theorem mem_forcedEpisode {episode : Option Episode} {cause : Cause} {o : Offer} :
    o ∈ forcedEpisode episode cause ↔ ∃ e, episode = some e ∧ o = episodeOffer e cause := by
  cases episode <;> simp [forcedEpisode, episodeOffer]

/-- A forced close adds the record of the episode that the slice end leaves to what the slice end offers (R114). -/
theorem EpisodeStep.force_offer {st : EpisodeStep} (h : st.episode ≠ none → st.offer = none) (cause : Cause)
    (o : Offer) :
    (st.force (some cause)).offer = some o ↔ st.offer = some o ∨ o ∈ forcedEpisode st.episode cause := by
  rw [(st.force_some cause).2, mem_forcedEpisode]
  cases he : st.episode with
  | none => simp
  | some e => simp [h (by simp [he]), eq_comm]

/-- Of the episode a RESTART offers what the slice end offers with nothing pending and the record of its forced close
(R114). -/
theorem Activity.atBoundary_restart_offer (a : Activity) (slice : Option Tag) (quietHold : Nat) (o : Offer) :
    (a.atBoundary slice (some .restart) quietHold).2 = some o ↔
      (a.atBoundary slice none quietHold).2 = some o ∨
        o ∈ forcedEpisode (a.atBoundary slice none quietHold).1.episode .restart := by
  cases slice with
  | none => exact EpisodeStep.force_offer (st := ⟨a.episode, none⟩) (fun _ => rfl) .restart o
  | some tag => exact EpisodeStep.force_offer episodeStep_offer_closes .restart o

/-- RESTART sets Q to QUIET_HOLD (R104). -/
theorem Activity.atBoundary_restart_quiet (a : Activity) (slice : Option Tag) (quietHold : Nat) :
    (a.atBoundary slice (some .restart) quietHold).1.quiet = quietHold := by
  cases slice with
  | none => rw [Activity.atBoundary_none, if_pos rfl]
  | some tag => rw [Activity.atBoundary_some, if_pos rfl]

/-- The ports after the boundary of a RESTART: their slots are empty, and the command has completed with N as it stood
before the batch (R182). -/
theorem boundary_restart_ports {heard : List Byte} {s : State} (h : s.pendingTimed = some .restart) :
    (boundaryWork (frameAtBoundary heard s)).site = s.site.emptySlots ∧
      (boundaryWork (frameAtBoundary heard s)).authority =
        s.authority.emptySlots.complete (put4 s.log.next.toNat) := by
  simp [boundaryWork_site, boundaryWork_authority, h, timedData]

/-- Settles O51: channels, head link, activity monitor, ports and batch of the boundary of a RESTART. -/
theorem restartClosesOpenWorkAndKeepsTheSettings : Obligations.RestartClosesOpenWorkAndKeepsTheSettings := by
  intro s heard hclock hp
  have hu := boundaryWork_withoutTimed_channel heard s
  have hch := fun c => (boundary_channel_timed (heard := heard) hp c).trans (restart_ch _ c)
  have hhead : (boundaryWork (frameAtBoundary heard s)).headLink =
      (frameAtBoundary heard s).headLink.atBoundary s.timebase.slice (some .restart) := by simp [hp]
  obtain ⟨-, hcrc, hstray⟩ := (frameAtBoundary heard s).headLink.atBoundary_frame s.timebase.slice (some .restart)
  obtain ⟨hsite, hauthority⟩ := boundary_restart_ports (heard := heard) hp
  obtain ⟨hlog, hordered, hlast⟩ := boundary_batch_timed (heard := heard) hp
  refine ⟨_, _, _, exec_boundary heard hclock, exec_boundary heard (s := s.withoutTimed) hclock,
    boundaryWork_batch heard s.withoutTimed, fun c => ?_, by rw [hhead, hcrc, if_pos rfl],
    by rw [hhead, hstray, if_pos rfl], ?_, ?_, fun p c => ?_, fun p => ?_, by rw [hsite]; rfl, ?_, ?_,
    by rw [hauthority]; rfl,
    _, hlog, hordered, ?_, fun c o ho => ?_, fun o ho => ?_⟩
  · rw [hch c, hu c]
    refine ⟨?_, rfl, rfl, rfl, rfl, rfl, rfl, rfl, rfl, rfl, rfl, rfl⟩
    simp only [deadline_off]
  · rw [boundary_activity hp, Activity.atBoundary_restart_quiet]
  · rw [boundary_activity hp, Activity.atBoundary_closes _ _ _ _ (cause := .restart) rfl]
  · cases p with
    | site => rw [State.port_site, hsite, PortState.emptySlots, Oct.get_fill]
    | authority => rw [State.port_authority, hauthority, PortState.complete, PortState.emptySlots, Oct.get_fill]
  · cases p with
    | site => rw [State.port_site, hsite]; exact ⟨rfl, rfl, rfl, rfl⟩
    | authority => rw [State.port_authority, hauthority]; exact ⟨rfl, rfl, rfl, rfl⟩
  · rw [boundaryWork_settings, frameAtBoundary_settings]
  · rw [boundaryWork_matrix, frameAtBoundary_matrix]
  · rw [hlast, timedOffer, frameAtBoundary_log]
  · rw [mem_restart_batch_channel ho, hu c]
    exact or_congr_left (mem_batch_withoutTimed_channel ho).symm
  · rw [mem_batch_prohibited ho, Activity.atBoundary_restart_offer, boundaryWork_withoutTimed_activity]
    exact or_congr_left (mem_batch_prohibited (s := s.withoutTimed) ho).symm

end Sys2Proof.Machine
end

section
/-! PROOFS. The level arithmetic: the energy scale, its inverse, the background step, the allowance, the site level. -/

namespace Sys2Proof.Machine

/-! ### The mantissa table (R41) -/

/-- 100th powers of twice the entries, one less and one more, enclose that of 2 × 10000 × 10^(f/100), which is
(2 × 10^4)^100 × 10^f. -/
theorem mantissa_rounded_pow : ∀ f < 100,
    (2 * mantissa f - 1) ^ 100 < (2 * 10 ^ 4) ^ 100 * 10 ^ f ∧
      (2 * 10 ^ 4) ^ 100 * 10 ^ f < (2 * mantissa f + 1) ^ 100 := by
  decide

theorem scaled_pow (a b k n f : Nat) : (a * b ^ k) ^ n * b ^ f = a ^ n * b ^ (k * n + f) := by
  rw [Nat.mul_pow, ← Nat.pow_mul, Nat.pow_add, Nat.mul_assoc]

/-- Entry f is 10000 × 10^(f/100) rounded to the nearest integer, said in 100th powers (R41). -/
theorem mantissa_rounded {f : Nat} (h : f < 100) :
    (2 * mantissa f - 1) ^ 100 < 2 ^ 100 * 10 ^ (400 + f) ∧ 2 ^ 100 * 10 ^ (400 + f) < (2 * mantissa f + 1) ^ 100 := by
  have hpow : (2 * 10 ^ 4) ^ 100 * 10 ^ f = 2 ^ 100 * 10 ^ (400 + f) := scaled_pow 2 10 4 100 f
  rw [← hpow]
  exact mantissa_rounded_pow f h

theorem mantissaTable_pairwise : mantissaTable.Pairwise (· < ·) := by decide

theorem mantissa_eq_getElem {f : Nat} (h : f < mantissaTable.length) : mantissa f = mantissaTable[f] :=
  List.getD_eq_getElem _ _ h

theorem mantissa_lt_succ {f : Nat} (h : f < 99) : mantissa f < mantissa (f + 1) := by
  have hlen := length_mantissaTable
  rw [mantissa_eq_getElem (by omega), mantissa_eq_getElem (by omega)]
  exact List.pairwise_iff_getElem.1 mantissaTable_pairwise _ _ _ _ (Nat.lt_succ_self f)

/-- In an increasing list the entries that are not above `q` stand first, so they are as many as `countP` counts. -/
theorem lt_countP_le_iff {xs : List Nat} (hxs : xs.Pairwise (· < ·)) (q : Nat) {j : Nat} (hj : j < xs.length) :
    j < xs.countP (fun t => decide (t ≤ q)) ↔ xs[j] ≤ q := by
  induction xs generalizing j with
  | nil => simp at hj
  | cons x xs ih =>
    obtain ⟨hx, hxs⟩ := List.pairwise_cons.1 hxs
    by_cases hq : x ≤ q
    · cases j with
      | zero => simp [hq]
      | succ j => simpa [hq] using ih hxs (by simpa using hj)
    · have hnone : (x :: xs).countP (fun t => decide (t ≤ q)) = 0 := by
        refine List.countP_eq_zero.2 fun t ht => ?_
        rcases List.mem_cons.1 ht with rfl | ht
        · simpa using hq
        · have := hx t ht
          simp only [decide_eq_true_eq]
          omega
      have hge : x ≤ (x :: xs)[j] := by
        cases j with
        | zero => exact Nat.le_refl x
        | succ j => exact (hx _ (List.getElem_mem _)).le
      omega

/-- The table step is the largest index whose entry is not above the number looked up (R43). -/
theorem le_tableStep_iff {q j : Nat} (hq : 10000 ≤ q) (hj : j < 100) : j ≤ tableStep q ↔ mantissa j ≤ q := by
  have hcount := fun {i : Nat} (hi : i < 100) => lt_countP_le_iff mantissaTable_pairwise q (j := i) hi
  have hpos := (hcount (i := 0) (by decide)).2 hq
  rw [mantissa_eq_getElem hj, ← hcount hj, tableStep]
  omega

theorem tableStep_lt (q : Nat) : tableStep q < 100 := by
  have : mantissaTable.countP (fun t => decide (t ≤ q)) ≤ 100 := List.countP_le_length
  unfold tableStep
  omega

/-! ### The energy scale (R42) -/

/-- A level code from 200 on, as its place in a decade and the number of the decade. -/
theorem energy_eq {i j : Nat} (hj : j < 100) : energy (100 * (i + 2) + j) = mantissa j * 10 ^ i := by
  unfold energy
  rw [show (100 * (i + 2) + j) % 100 = j by omega, show (100 * (i + 2) + j) / 100 - 2 = i by omega]

theorem exists_decade {l : Nat} (h : 200 ≤ l) : ∃ i j, j < 100 ∧ l = 100 * (i + 2) + j :=
  ⟨l / 100 - 2, l % 100, by omega, by omega⟩

/-- The energies of decade `i` lie from 10^(i + 4) to below 10^(i + 5). -/
theorem energy_decade {i j : Nat} (hj : j < 100) :
    10 ^ (i + 4) ≤ energy (100 * (i + 2) + j) ∧ energy (100 * (i + 2) + j) < 10 ^ (i + 5) := by
  obtain ⟨hlo, hhi⟩ := mantissa_bounds hj
  have hpos : 0 < 10 ^ i := Nat.pow_pos (by decide)
  rw [energy_eq hj, Nat.pow_add, Nat.pow_add]
  constructor <;> nlinarith

theorem energy_lt_succ {l : Nat} (h : 200 ≤ l) : energy l < energy (l + 1) := by
  obtain ⟨i, j, hj, rfl⟩ := exists_decade h
  by_cases hlast : j = 99
  · subst hlast
    exact (energy_decade hj).2.trans_le (energy_decade (i := i + 1) (j := 0) (by decide)).1
  · rw [Nat.add_assoc, energy_eq hj, energy_eq (by omega)]
    exact Nat.mul_lt_mul_of_pos_right (mantissa_lt_succ (by omega)) (Nat.pow_pos (by decide))

theorem energy_lt {l k : Nat} (hl : 200 ≤ l) (hlk : l < k) : energy l < energy k :=
  Nat.rel_of_forall_rel_succ_of_le_of_lt (f := energy) (· < ·) (fun _ h => energy_lt_succ h) hl hlk

/-! ### The level of an energy (R43) -/

/-- The decade of an energy: as many digits as 10^(k + 4) has. -/
theorem decades_spec {fuel m : Nat} (hlo : 10000 ≤ m) (hhi : m < 10 ^ (fuel + 5)) :
    10 ^ (decades fuel m + 4) ≤ m ∧ m < 10 ^ (decades fuel m + 5) := by
  induction fuel generalizing m with
  | zero => simpa [decades] using And.intro hlo hhi
  | succ fuel ih =>
    unfold decades
    split
    · exact ⟨hlo, by omega⟩
    · have hm : m / 10 < 10 ^ (fuel + 5) := by
        rw [Nat.div_lt_iff_lt_mul (by decide), ← Nat.pow_succ]
        exact hhi
      obtain ⟨hlow, hhigh⟩ := ih (by omega) hm
      generalize decades fuel (m / 10) = k at hlow hhigh ⊢
      have hpow : ∀ n, 10 ^ (k + 1 + n) = 10 ^ (k + n) * 10 := fun n => by rw [Nat.add_right_comm, Nat.pow_succ]
      rw [hpow, hpow]
      omega

theorem lconv_of_lt {m : Nat} (h : m < 10000) : lconv m = 200 := if_pos h

theorem le_lconv (m : Nat) : 200 ≤ lconv m := by
  unfold lconv
  dsimp only
  split <;> omega

/-- Lconv rounds down: a level is at or below Lconv(m) exactly where its energy is at or below m. -/
theorem le_lconv_iff {l m : Nat} (hl : 200 ≤ l) (hlo : 10000 ≤ m) (hhi : m < 2 ^ 80) : l ≤ lconv m ↔ energy l ≤ m := by
  obtain ⟨i, j, hj, rfl⟩ := exists_decade hl
  obtain ⟨hk, hk'⟩ := decades_spec (fuel := 30) hlo (hhi.trans (by decide))
  unfold lconv
  rw [if_neg (by omega)]
  dsimp only
  generalize decades 30 m = k at hk hk' ⊢
  obtain ⟨hdlo, hdhi⟩ := energy_decade (i := i) hj
  have hstep := tableStep_lt (m / 10 ^ k)
  rcases Nat.lt_trichotomy i k with hik | rfl | hik
  · have : 10 ^ (i + 5) ≤ 10 ^ (k + 4) := Nat.pow_le_pow_right (by decide) (by omega)
    omega
  · have hpos : 0 < 10 ^ i := Nat.pow_pos (by decide)
    have hq : 10000 ≤ m / 10 ^ i := by
      rw [Nat.le_div_iff_mul_le hpos, Nat.mul_comm, show 10000 = 10 ^ 4 by rfl, ← Nat.pow_add]
      exact hk
    rw [energy_eq hj, ← Nat.le_div_iff_mul_le hpos, ← le_tableStep_iff hq hj]
    omega
  · have : 10 ^ (k + 5) ≤ 10 ^ (i + 4) := Nat.pow_le_pow_right (by decide) (by omega)
    omega

theorem lconv_energy {l : Nat} (hl : 200 ≤ l) (hhi : l ≤ 1400) : lconv (energy l) = l := by
  obtain ⟨hlo, htop⟩ := energy_bounds hhi
  have hm : energy l < 2 ^ 80 := htop.trans_lt (by decide)
  refine Nat.le_antisymm (Nat.not_lt.1 fun h => ?_) ((le_lconv_iff hl hlo hm).2 le_rfl)
  exact Nat.not_le.2 (energy_lt_succ hl) ((le_lconv_iff (by omega) hlo hm).1 h)

theorem lconv_mono {m n : Nat} (hmn : m ≤ n) (hn : n < 2 ^ 80) : lconv m ≤ lconv n := by
  by_cases hm : m < 10000
  · rw [lconv_of_lt hm]
    exact le_lconv n
  · have hle := (le_lconv_iff (le_lconv m) (Nat.not_lt.1 hm) (hmn.trans_lt hn)).1 le_rfl
    exact (le_lconv_iff (le_lconv m) (by omega) hn).2 (hle.trans hmn)

/-- Settles O52: the table by its powers, the scale by its steps, and Lconv by the levels that lie at or below it. -/
theorem lconvInvertsTheEnergyScale : Obligations.LconvInvertsTheEnergyScale := by
  refine ⟨⟨mantissa, fun f hf => mantissa_rounded hf, fun _ _ _ => rfl, fun l m hl hlo hhi => le_lconv_iff hl hlo hhi⟩,
    fun m hm => lconv_of_lt hm, by decide, by decide, fun l k hl hlk hk => ?_, fun l hl hhi => lconv_energy hl hhi,
    fun l m hl _ hlo hhi => le_lconv_iff hl hlo hhi, fun m n hmn hn => lconv_mono hmn hn⟩
  exact ⟨(energy_bounds (hlk.le.trans hk)).1, energy_lt hl hlk, (energy_bounds hk).2⟩

/-! ### The background step (R47) -/

/-- A number less its `p`-th part does not fall when the number grows. -/
theorem sub_div_mono {a b p : Nat} (hp : 0 < p) (hab : a ≤ b) : a - a / p ≤ b - b / p := by
  obtain ⟨d, rfl⟩ := Nat.exists_eq_add_of_le hab
  have hstep : (a + d) / p ≤ a / p + d :=
    calc (a + d) / p ≤ (a + d * p) / p := Nat.div_le_div_right (by nlinarith)
      _ = a / p + d := Nat.add_mul_div_right a d hp
  have := Nat.div_le_self a p
  omega

/-- A later step lies between the old average and the new energy. -/
theorem backgroundStep_between (b e shift : Nat) :
    min b e ≤ backgroundStep (some b) e shift ∧ backgroundStep (some b) e shift ≤ max b e := by
  have hp : 0 < 2 ^ shift := Nat.pow_pos (by decide)
  have hb := Nat.div_le_self b (2 ^ shift)
  have he := Nat.div_le_self e (2 ^ shift)
  simp only [backgroundStep]
  rcases Nat.le_total b e with h | h
  · have := sub_div_mono hp h
    have := Nat.div_le_div_right (c := 2 ^ shift) h
    omega
  · have := sub_div_mono hp h
    have := Nat.div_le_div_right (c := 2 ^ shift) h
    omega

/-! ### The allowance (R51, R52) -/

theorem remaining_eq (a s : Nat) : (if s < a then a - s else 0) = remainingEnergy a s := by
  unfold remainingEnergy
  split <;> omega

theorem site_eq (tot bg : Nat) : (if bg ≤ tot then tot - bg else 0) = siteEnergy tot bg := by
  unfold siteEnergy
  split <;> omega

theorem allowanceSlices_le (planned limit tot bg : Nat) : allowanceSlices planned limit tot bg ≤ planned :=
  calc allowanceSlices planned limit tot bg ≤ planned * energy limit / energy limit :=
        Nat.div_le_div_right (Nat.sub_le _ _)
    _ = planned := Nat.mul_div_cancel _ (energy_pos limit)

/-- The three allowance states, each with its condition (R52). -/
theorem allowanceState_cases (planned limit tot bg fraction : Nat) :
    let a := allowedEnergy planned limit
    let s := siteEnergy tot bg
    (a ≤ s ∧ allowanceState planned limit tot bg fraction = .exhausted) ∨
      (s < a ∧ remainingEnergy a s * 256 < a * fraction ∧
        allowanceState planned limit tot bg fraction = .warning) ∨
      (s < a ∧ a * fraction ≤ remainingEnergy a s * 256 ∧
        allowanceState planned limit tot bg fraction = .clear) := by
  unfold allowanceState
  dsimp only
  split
  · exact .inl ⟨‹_›, rfl⟩
  · split
    · exact .inr (.inl ⟨by omega, ‹_›, rfl⟩)
    · exact .inr (.inr ⟨by omega, by omega, rfl⟩)

theorem allowanceState_exhausted_iff {planned limit tot bg fraction : Nat} :
    allowanceState planned limit tot bg fraction = .exhausted ↔ allowedEnergy planned limit ≤ siteEnergy tot bg := by
  rcases allowanceState_cases planned limit tot bg fraction with ⟨h, h1⟩ | ⟨h, -, h1⟩ | ⟨h, -, h1⟩ <;> rw [h1] <;>
    simpa using h

theorem allowanceState_warning_iff {planned limit tot bg fraction : Nat} :
    allowanceState planned limit tot bg fraction = .warning ↔
      siteEnergy tot bg < allowedEnergy planned limit ∧
        remainingEnergy (allowedEnergy planned limit) (siteEnergy tot bg) * 256 <
          allowedEnergy planned limit * fraction := by
  rcases allowanceState_cases planned limit tot bg fraction with ⟨h, h1⟩ | ⟨h, hw, h1⟩ | ⟨h, hw, h1⟩ <;> rw [h1]
  · simp [h]
  · simp [h, hw]
  · simp [hw]

/-- Exhausted, an interval has no allowance left. -/
theorem allowanceSlices_exhausted {planned limit tot bg : Nat} (h : allowedEnergy planned limit ≤ siteEnergy tot bg) :
    allowanceSlices planned limit tot bg = 0 := by
  rw [allowanceSlices, remainingEnergy, Nat.sub_eq_zero_of_le h, Nat.zero_div]

/-- With no site energy all of the allowance remains, so no fraction below 256 warns. -/
theorem allowanceState_clear {planned limit tot bg fraction : Nat} (hs : tot ≤ bg) (hp : 1 ≤ planned)
    (hf : fraction ≤ 255) : allowanceState planned limit tot bg fraction = .clear := by
  have ha : 0 < allowedEnergy planned limit := Nat.mul_pos hp (energy_pos limit)
  have hsite : siteEnergy tot bg = 0 := Nat.sub_eq_zero_of_le hs
  rcases allowanceState_cases planned limit tot bg fraction with ⟨h, -⟩ | ⟨-, h, -⟩ | ⟨-, -, h⟩
  · omega
  · rw [hsite, remainingEnergy, Nat.sub_zero] at h
    exact absurd (Nat.lt_of_mul_lt_mul_left h) (by omega)
  · exact h

/-! ### The site level (R48) -/

/-- The band, by D = Ltot − Lbg. -/
theorem correctionBand_cases (ltot lbg : Nat) :
    (100 ≤ (ltot : Int) - lbg ∧ correctionBand ltot lbg = .uncorrected) ∨
      (30 ≤ (ltot : Int) - lbg ∧ (ltot : Int) - lbg ≤ 99 ∧ correctionBand ltot lbg = .corrected) ∨
      ((ltot : Int) - lbg ≤ 29 ∧ correctionBand ltot lbg = .dominated) := by
  unfold correctionBand
  dsimp only
  split
  · exact .inl ⟨‹_›, rfl⟩
  · split
    · exact .inr (.inl ⟨‹_›, by omega, rfl⟩)
    · exact .inr (.inr ⟨by omega, rfl⟩)

theorem lt_of_lconv_lt {m n : Nat} (hm : m < 2 ^ 80) (h : lconv m < lconv n) : m < n :=
  Nat.not_le.1 fun hle => Nat.not_le.2 h (lconv_mono hle hm)

/-- The site level of two means in scale: each band's, and in the middle band one between 200 and the total level. -/
theorem siteLevel_bounds {meanTot meanBg : Nat} (htot : inScale meanTot) (hbg : inScale meanBg) :
    let d : Int := (lconv meanTot : Int) - (lconv meanBg : Int)
    (100 ≤ d → siteLevel (correctionBand (lconv meanTot) (lconv meanBg)) meanTot meanBg = some (lconv meanTot)) ∧
    (d ≤ 29 → siteLevel (correctionBand (lconv meanTot) (lconv meanBg)) meanTot meanBg = none) ∧
    (30 ≤ d → d ≤ 99 → meanBg < meanTot ∧
      ∃ l, siteLevel (correctionBand (lconv meanTot) (lconv meanBg)) meanTot meanBg = some l ∧
        l = lconv (meanTot - meanBg) ∧ 200 ≤ l ∧ l ≤ lconv meanTot) := by
  have htop : meanTot < 2 ^ 80 := htot.2.trans_lt (by decide)
  dsimp only
  rcases correctionBand_cases (lconv meanTot) (lconv meanBg) with ⟨h, hband⟩ | ⟨h, h', hband⟩ | ⟨h, hband⟩ <;>
    rw [hband]
  · exact ⟨fun _ => rfl, fun _ => by omega, fun _ _ => by omega⟩
  · refine ⟨fun _ => by omega, fun _ => by omega, fun _ _ => ⟨?_, _, rfl, rfl, le_lconv _, ?_⟩⟩
    · exact lt_of_lconv_lt (hbg.2.trans_lt (by decide)) (by omega)
    · exact lconv_mono (Nat.sub_le _ _) htop
  · exact ⟨fun _ => by omega, fun _ => rfl, fun _ _ => by omega⟩

/-- Settles O53: the background step, the allowance quantities, and the site level of each band. -/
theorem levelQuantitiesKeepTheirBounds : Obligations.LevelQuantitiesKeepTheirBounds := by
  refine ⟨fun b e shift => ⟨rfl, rfl, backgroundStep_between b e shift⟩, fun planned limit tot bg fraction => ?_,
    fun meanTot meanBg htot hbg => siteLevel_bounds htot hbg⟩
  dsimp only
  rw [site_eq, remaining_eq]
  refine ⟨rfl, allowanceSlices_le _ _ _ _, allowanceState_exhausted_iff, allowanceState_warning_iff,
    fun h => allowanceSlices_exhausted (allowanceState_exhausted_iff.1 h), fun h => ?_, allowanceState_clear⟩
  exact absurd (allowanceState_warning_iff.1 h).2 (by omega)

end Sys2Proof.Machine
end

section
/-! PROOFS. The open work of a channel, the counts of its interval with its gap run and its event: every step keeps it
fitted together. -/

namespace Sys2Proof.Machine

/-! ### The counts of an interval (R55, R57, R59) -/

/-- An interval that can take in one more slice: its counts add up, and they are below what is planned. -/
def Interval.HasRoom (iv : Interval) : Prop :=
  iv.measured + iv.concealed + iv.missing + iv.cal = iv.elapsed ∧ iv.elapsed < iv.planned ∧ iv.planned ≤ 28800 ∧
    iv.nbg ≤ iv.nacc ∧ iv.activitySlices ≤ iv.elapsed

theorem IntervalLength.slices_bounds (l : IntervalLength) : 0 < l.slices ∧ l.slices ≤ 28800 := by
  cases l <;> decide

/-- P is at least one slice and at most a whole LENGTH (R57). -/
theorem plannedLength_bounds (sod : Nat) {length : Nat} (h : 0 < length) :
    0 < plannedLength sod length ∧ plannedLength sod length ≤ length := by
  have hdiv := Nat.div_add_mod' sod length
  have hmod := Nat.mod_lt sod h
  unfold plannedLength
  rw [Nat.succ_mul]
  omega

theorem openInterval_hasRoom (x : SliceContext) : (openInterval x).HasRoom := by
  obtain ⟨hpos, hmax⟩ := (x.classes.get x.tag.cls).length.slices_bounds
  obtain ⟨hlo, hhi⟩ := plannedLength_bounds x.tag.time.sod.val hpos
  exact ⟨rfl, hlo, hhi.trans hmax, le_rfl, le_rfl⟩

/-- The interval that takes a slice in has room for it: a full one is closed by LENGTH first (R59). -/
theorem intervalFor_hasRoom (x : SliceContext) {interval : Option Interval}
    (h : ∀ iv, interval = some iv → iv.CountsOk) : (intervalFor x interval).HasRoom := by
  cases interval with
  | none => exact openInterval_hasRoom x
  | some iv =>
    obtain ⟨hsum, -, hle, hmax, hnbg, hact⟩ := h iv rfl
    simp only [intervalFor]
    split
    · exact openInterval_hasRoom x
    · exact ⟨hsum, by omega, hmax, hnbg, hact⟩

@[simp] theorem Interval.recompute_countsOk {iv : Interval} {warnFraction : Nat} :
    (iv.recompute warnFraction).CountsOk ↔ iv.CountsOk := Iff.rfl

/-- The add of a slice puts it into exactly one of the four counts (R60 to R63). -/
theorem Interval.add_countsOk {iv : Interval} (h : iv.HasRoom) (x : SliceContext) (r : SliceResult) (bg : Option Nat) :
    (iv.add x r bg).CountsOk := by
  obtain ⟨hsum, hlt, hmax, hnbg, hact⟩ := h
  have hactive : (if x.active then 1 else 0) ≤ 1 := by split <;> decide
  have hvalid : (if bg.isSome then 1 else 0) ≤ 1 := by split <;> decide
  unfold Interval.nacc at hnbg
  cases r <;> simp only [Interval.add, Interval.addLevel, Interval.addSlice, Interval.CountsOk, Interval.nacc] <;> omega

theorem Interval.add_missing (iv : Interval) (x : SliceContext) (r : SliceResult) (bg : Option Nat) :
    (iv.add x r bg).missing = if r = .missing then iv.missing + 1 else iv.missing := by
  cases r <;> rfl

/-- A fill moves slices from the missing to the concealed (R86). -/
theorem Interval.conceal_countsOk {iv : Interval} (h : iv.CountsOk) {n : Nat} (hn : n ≤ iv.missing) (ec : Nat)
    (bg : Option Nat) : (iv.conceal n ec bg).CountsOk := by
  obtain ⟨hsum, hone, hle, hmax, hnbg, hact⟩ := h
  have hvalid : (if bg.isSome then n else 0) ≤ n := by split <;> omega
  unfold Interval.nacc at hnbg
  simp only [Interval.conceal, Interval.CountsOk, Interval.nacc]
  omega

/-! ### A gap run in its interval (R80 to R86) -/

/-- A run fits with the open interval of its channel: its length is in range, and where its home is open all its slices
are counted missing there. -/
def GapRun.FitsIn (g : GapRun) (interval : Option Interval) : Prop :=
  1 ≤ g.length ∧ g.length ≤ 4294967295 ∧ (g.homeOpen = true → ∃ iv, interval = some iv ∧ g.length ≤ iv.missing)

/-- A run whose home is closed fits with any interval (R84). -/
theorem GapRun.homeClosed_fitsIn {g : GapRun} {interval : Option Interval} (h : g.FitsIn interval)
    (interval' : Option Interval) : g.homeClosed.FitsIn interval' := by
  obtain ⟨hlo, hhi, -⟩ := h
  exact ⟨hlo, hhi, nofun⟩

theorem startRun_fitsIn {iv : Interval} (h : 1 ≤ iv.missing) (t : Time) (prev : Option PrevResult) :
    (startRun t prev iv).FitsIn (some iv) := ⟨le_rfl, (by decide : 1 ≤ 4294967295), fun _ => ⟨iv, rfl, h⟩⟩

/-- A run that a slice extends still fits, for the slice is counted missing (R83). -/
theorem GapRun.extend_fitsIn {g : GapRun} {iv iv' : Interval} (h : g.FitsIn (some iv))
    (hm : iv'.missing = iv.missing + 1) (t : Time) : (g.extend t).FitsIn (some iv') := by
  obtain ⟨hlo, hhi, hhome⟩ := h
  have hlen : (g.extend t).length = min 4294967295 (g.length + 1) := satAdd32_eq _ _
  refine ⟨by omega, by omega, fun hopen => ⟨iv', rfl, ?_⟩⟩
  obtain ⟨_, hiv, hle⟩ := hhome hopen
  cases hiv
  omega

/-- A run that the four conditions conceal follows a LEVEL, and its home is open (R85). -/
theorem GapRun.of_refusal_none {g : GapRun} {concealMax : Nat} (h : g.refusal concealMax = none) :
    (∃ e, g.before = some e) ∧ g.homeOpen = true := by
  unfold GapRun.refusal at h
  repeat' split at h
  all_goals simp_all [Option.ne_none_iff_exists']

/-- The run that reaches the gap-run step is the channel's own, at most with its home closed (R84). -/
theorem closeStep_gap_eq_some {x : SliceContext} {c : Channel} {ch : ChannelState} {g : GapRun}
    (h : (closeStep x c ch).1.gap = some g) :
    ∃ g₀, ch.gap = some g₀ ∧
      (g = g₀.homeClosed ∨ g = g₀ ∧ (ch.interval = none ∨ ch.interval = some (intervalFor x ch.interval))) := by
  have hfor := closeStep_interval x c ch
  rcases closeStep_cases x c ch with ⟨hiv, h1⟩ | ⟨iv, -, -, h1⟩ | ⟨iv, -, -, -, h1⟩ | ⟨iv, hiv, -, -, h1⟩ <;>
    rw [h1] at h hfor
  · exact ⟨g, h, .inr ⟨rfl, .inl hiv⟩⟩
  · obtain ⟨g₀, hg, rfl⟩ := Option.map_eq_some_iff.1 h
    exact ⟨g₀, hg, .inl rfl⟩
  · obtain ⟨g₀, hg, rfl⟩ := Option.map_eq_some_iff.1 h
    exact ⟨g₀, hg, .inl rfl⟩
  · refine ⟨g, h, .inr ⟨rfl, .inr ?_⟩⟩
    rw [← hfor, hiv, Option.getD_some]

/-! ### The account of a slice (R58) -/

section
variable {ch : ChannelState}

/-- The run that reaches the gap-run step fits with the interval that the slice is added to. -/
theorem closeStep_gap_fitsIn (h : ch.WorkOk) {x : SliceContext} {c : Channel} {g : GapRun}
    (hg : (closeStep x c ch).1.gap = some g) : g.FitsIn (some (intervalFor x ch.interval)) := by
  obtain ⟨-, hgap, -, -⟩ := h
  obtain ⟨g₀, hg₀, rfl | ⟨rfl, hiv⟩⟩ := closeStep_gap_eq_some hg
  · exact GapRun.homeClosed_fitsIn (hgap g₀ hg₀) _
  · obtain ⟨hlo, hhi, hhome⟩ := hgap g hg₀
    refine ⟨hlo, hhi, fun hopen => ?_⟩
    obtain ⟨iv, hsome, hle⟩ := hhome hopen
    rcases hiv with hiv | hiv
    · rw [hiv] at hsome
      cases hsome
    · exact ⟨iv, hiv ▸ hsome, hle⟩

theorem addedInterval_countsOk (h : ch.WorkOk) (x : SliceContext) (r : SliceResult) :
    (addedInterval x ch r).CountsOk :=
  Interval.add_countsOk (intervalFor_hasRoom x h.1) x r _

theorem addedInterval_missing (x : SliceContext) (ch : ChannelState) (r : SliceResult) :
    (addedInterval x ch r).missing =
      if r = .missing then (intervalFor x ch.interval).missing + 1 else (intervalFor x ch.interval).missing :=
  Interval.add_missing _ _ _ _

/-- Filled or not, the interval's counts add up: a run that is concealed had all its slices missing there (R86). -/
theorem accountGap_countsOk (h : ch.WorkOk) (x : SliceContext) (c : Channel) (r : SliceResult) :
    (accountGap x c ch r).interval.CountsOk := by
  have hadd := addedInterval_countsOk h x r
  rcases gapStep_interval x c (closeStep x c ch).1.gap ch.prev (addedInterval x ch r) r
    (ch.background.valid x.settings.bgMin) with h1 | ⟨g, l, p, overload, hg, rfl, hrefusal, h1⟩ <;>
    rw [accountGap, h1]
  · exact hadd
  · obtain ⟨-, -, hhome⟩ := closeStep_gap_fitsIn h hg
    obtain ⟨_, hiv, hle⟩ := hhome (GapRun.of_refusal_none hrefusal).2
    rw [Interval.recompute_countsOk]
    refine Interval.conceal_countsOk hadd ?_ _ _
    rw [addedInterval_missing, if_neg nofun, Option.some.inj hiv]
    exact hle

/-- Only a MISSING slice leaves a run, one that starts with it or is extended by it (R82, R83). -/
theorem accountGap_gap_fitsIn (h : ch.WorkOk) (x : SliceContext) (c : Channel) (r : SliceResult) {g : GapRun}
    (hg : (accountGap x c ch r).gap = some g) : g.FitsIn (some (accountGap x c ch r).interval) := by
  have hgap := gapStep_gap x c (closeStep x c ch).1.gap ch.prev (addedInterval x ch r) r
    (ch.background.valid x.settings.bgMin)
  rw [accountGap, hgap] at hg
  split at hg
  · rename_i hr
    subst hr
    have hm := addedInterval_missing x ch .missing
    rw [if_pos rfl] at hm
    have hiv : (accountGap x c ch .missing).interval = addedInterval x ch .missing := by
      rcases gapStep_interval x c (closeStep x c ch).1.gap ch.prev (addedInterval x ch .missing) .missing
        (ch.background.valid x.settings.bgMin) with h1 | ⟨_, _, _, _, -, hr, -, -⟩
      · exact h1
      · cases hr
    rw [hiv]
    cases hold : (closeStep x c ch).1.gap with
    | none =>
      rw [hold] at hg
      cases hg
      exact startRun_fitsIn (by omega) _ _
    | some g₀ =>
      rw [hold] at hg
      cases hg
      exact GapRun.extend_fitsIn (closeStep_gap_fitsIn h hold) hm _
  · cases hg

/-- An account keeps the open work fitted together. -/
theorem account_workOk (h : ch.WorkOk) (hon : ch.link ≠ .off) (x : SliceContext) (c : Channel) (r : SliceResult) :
    (account x c ch r).ch.WorkOk := by
  obtain ⟨n, hiv⟩ := eventStep_interval x c (accountGap x c ch r).interval ch.event r
  rw [account_eq, accountEvent, hiv]
  refine ⟨fun iv hsome => ?_, fun g hg => ?_, fun _ => rfl, fun hoff => absurd hoff hon⟩
  · cases hsome
    exact accountGap_countsOk h x c r
  · obtain ⟨hlo, hhi, hhome⟩ := accountGap_gap_fitsIn h x c r hg
    refine ⟨hlo, hhi, fun hopen => ⟨_, rfl, ?_⟩⟩
    obtain ⟨_, hsome, hle⟩ := hhome hopen
    cases hsome
    exact hle

/-! ### Frames, deadlines and timed commands -/

/-- On a channel that is not OFF only the open work counts. -/
theorem ChannelState.workOk_of_on {ch' : ChannelState} (h : ch.WorkOk) (hon : ch'.link ≠ .off)
    (hinterval : ch'.interval = ch.interval) (hgap : ch'.gap = ch.gap) (hevent : ch'.event = ch.event) : ch'.WorkOk := by
  unfold ChannelState.WorkOk
  rw [hinterval, hgap, hevent]
  exact ⟨h.1, h.2.1, h.2.2.1, fun hoff => absurd hoff hon⟩

/-- A channel with nothing open fits together, where it holds nothing else while it is OFF. -/
theorem ChannelState.workOk_of_idle (hinterval : ch.interval = none) (hgap : ch.gap = none) (hevent : ch.event = none)
    (hoff : ch.link = .off → ch.acquire = 0 ∧ ch.miss = 0 ∧ ch.held = none ∧ ch.prev = none ∧
      ch.background = ⟨none, 0⟩) : ch.WorkOk := by
  unfold ChannelState.WorkOk
  rw [hinterval, hgap, hevent]
  refine ⟨by simp, by simp, by simp, fun hlink => ?_⟩
  obtain ⟨hacquire, hmiss, hheld, hprev, hbackground⟩ := hoff hlink
  exact ⟨hacquire, hmiss, hheld, rfl, rfl, hprev, rfl, hbackground⟩

theorem acceptReport_workOk (h : ch.WorkOk) (syncTag : Option Byte) (tag : Byte) (report : Report) :
    (acceptReport syncTag tag report ch).WorkOk := by
  rcases acceptReport_cases syncTag tag report ch with h1 | ⟨hon, h1 | h1 | h1⟩ <;> rw [h1]
  · exact h
  all_goals exact ChannelState.workOk_of_on h hon rfl rfl rfl

theorem deadlineLink_workOk (h : ch.WorkOk) (lossCount : Nat) : (deadlineLink lossCount ch).1.WorkOk := by
  rcases deadlineLink_cases lossCount ch with ⟨-, h1⟩ | ⟨r, hon, -, h1⟩ <;> rw [h1]
  · exact h
  · exact ChannelState.workOk_of_on h (mt (linkDeadline_off _ _ _).1 hon) rfl rfl rfl

/-- A result is handed on only for a channel that is not OFF (R37). -/
theorem deadlineLink_on {lossCount : Nat} {r : SliceResult} (h : (deadlineLink lossCount ch).2 = some r) :
    (deadlineLink lossCount ch).1.link ≠ .off := by
  rw [ne_eq, deadlineLink_off]
  intro hoff
  rw [deadlineLink_of_off hoff] at h
  cases h

theorem ChannelWork.closeAll_workOk {w : ChannelWork} (h : w.ch.WorkOk) (c : Channel) (cause : Cause) :
    (w.closeAll c cause).ch.WorkOk := by
  obtain ⟨-, -, -, hoff⟩ := h
  rw [w.closeAll_ch]
  refine ChannelState.workOk_of_idle rfl rfl rfl fun hlink => ?_
  obtain ⟨hacquire, hmiss, hheld, -, -, -, -, hbackground⟩ := hoff hlink
  exact ⟨hacquire, hmiss, hheld, rfl, hbackground⟩

/-- CUT closes the event with the interval, and the home of the run (R66, R84). -/
theorem ChannelWork.cut_workOk {w : ChannelWork} (h : w.ch.WorkOk) (c : Channel) : (w.cut c).ch.WorkOk := by
  rcases w.cut_cases c with ⟨-, h1⟩ | ⟨_, hon, -, h1, -⟩ <;> rw [h1]
  · exact h
  · refine ⟨by simp, fun g hg => ?_, by simp, fun hoff => absurd hoff hon⟩
    obtain ⟨g₀, hg₀, rfl⟩ := Option.map_eq_some_iff.1 hg
    exact GapRun.homeClosed_fitsIn (h.2.1 g₀ hg₀) none

/-- No timed command leaves open work that does not fit together (R38, R39, R65, R182). -/
theorem ChannelWork.takeTimed_workOk {w : ChannelWork} (h : w.ch.WorkOk) (timed : Option Timed) (c : Channel) :
    (w.takeTimed timed c).ch.WorkOk := by
  unfold ChannelWork.takeTimed
  split
  · exact h
  · exact ChannelWork.closeAll_workOk h c .timeStep
  · split
    · exact ChannelWork.cut_workOk h c
    · exact h
  · split
    · exact ChannelState.workOk_of_on h nofun rfl rfl rfl
    · exact h
  · split
    · dsimp only
      rw [w.closeAll_ch]
      exact ChannelState.workOk_of_idle rfl rfl rfl fun _ => ⟨rfl, rfl, rfl, rfl, rfl⟩
    · exact h
  · dsimp only
    rw [w.closeAll_ch]
    refine ChannelState.workOk_of_idle rfl rfl rfl fun hlink => ?_
    have hoff : w.ch.link = .off := by
      by_contra hon
      simp [ChannelState.restarted, hon] at hlink
    obtain ⟨-, -, hheld, -⟩ := h.2.2.2 hoff
    exact ⟨rfl, rfl, hheld, rfl, rfl⟩

end

/-! ### Every step -/

theorem endFrame_workOk {s : State} {c : Channel} (h : (s.channel c).WorkOk) (heard : List Byte) :
    ((endFrame heard s).channel c).WorkOk := by
  rcases endFrame_channel heard s c with h1 | ⟨_, _, _, h1⟩ <;> rw [h1]
  · exact h
  · exact acceptReport_workOk h _ _ _

theorem deadline_workOk {s : State} {c : Channel} (h : (s.channel c).WorkOk) (heard : List Byte) :
    (deadline (frameAtBoundary heard s) c).ch.WorkOk := by
  have hframe : ((frameAtBoundary heard s).channel c).WorkOk := by
    rcases frameAtBoundary_channel heard s c with h1 | ⟨_, _, _, h1⟩ <;> rw [h1]
    · exact h
    · exact acceptReport_workOk h _ _ _
  have hlink := deadlineLink_workOk hframe s.settings.lossCount
  rcases deadline_cases heard s c with ⟨-, _, h1, rfl | rfl⟩ | ⟨_, _, -, -, -, hr, h1⟩ <;> rw [h1]
  · exact hframe
  · exact hlink
  · refine account_workOk ?_ ?_ _ c _
    · exact ChannelState.workOk_of_on hlink (deadlineLink_on hr) rfl rfl rfl
    · exact deadlineLink_on hr

theorem ChannelState.rewarn_workOk {ch : ChannelState} (h : ch.WorkOk) (v : Nat) : (ch.rewarn v).WorkOk := by
  obtain ⟨hinterval, hgap, hevent, hoff⟩ := h
  refine ⟨fun iv hiv => ?_, fun g hg => ?_, fun he => ?_, fun hlink => ?_⟩
  · obtain ⟨iv₀, hiv₀, rfl⟩ := Option.map_eq_some_iff.1 hiv
    exact hinterval iv₀ hiv₀
  · obtain ⟨hlo, hhi, hhome⟩ := hgap g hg
    refine ⟨hlo, hhi, fun hopen => ?_⟩
    obtain ⟨iv, hiv, hle⟩ := hhome hopen
    exact ⟨iv.rewarn v, Option.map_eq_some_iff.2 ⟨iv, hiv, rfl⟩, hle⟩
  · exact Option.isSome_map.trans (hevent he)
  · obtain ⟨hacquire, hmiss, hheld, hiv, hrest⟩ := hoff hlink
    exact ⟨hacquire, hmiss, hheld, Option.map_eq_none_iff.2 hiv, hrest⟩

/-- A pin reset discards the open work, and leaves an OFF channel with nothing (R79, R94, R130). -/
theorem ChannelState.abandoned_workOk {ch : ChannelState} (h : ch.WorkOk) : ch.abandoned.WorkOk := by
  refine ChannelState.workOk_of_idle rfl rfl rfl fun hlink => ?_
  obtain ⟨hacquire, hmiss, -, -, -, -, -, hbackground⟩ := h.2.2.2 hlink
  exact ⟨hacquire, hmiss, rfl, rfl, hbackground⟩

/-- Every command keeps the open work of every channel fitted together. -/
theorem exec_workOk {i : Instr} {s t : State} (h : s.WorkOk) (ht : exec i s = .next t) : t.WorkOk := by
  intro c
  unfold State.channel
  rcases exec_channels ht with h1 | h1 | h1 | ⟨heard, h1⟩ | ⟨heard, -, h1⟩ | h1 | ⟨v, h1⟩ <;> rw [h1]
  · exact h c
  · rw [Oct.get_fill]
    exact ChannelState.workOk_of_idle rfl rfl rfl fun _ => ⟨rfl, rfl, rfl, rfl, rfl⟩
  · rw [Oct.get_map]
    exact ChannelState.abandoned_workOk (h c)
  · exact endFrame_workOk (h c) heard
  · rw [boundaryWork_channels, Oct.get_ofFn]
    exact ChannelWork.takeTimed_workOk (deadline_workOk (h c) heard) _ c
  · rw [Oct.get_map]
    exact h c
  · rw [Oct.get_map]
    exact ChannelState.rewarn_workOk (h c) v

end Sys2Proof.Machine
end

section
/-! PROOFS. The energies of a channel, of its interval, its gap run, its event and its background: every step keeps them
in their bounds. -/

namespace Sys2Proof.Machine

/-! ### The energies of an interval (R45, R46) -/

/-- A slice result whose level, where it has one, lies in the scale. -/
def SliceResult.InScale (r : SliceResult) : Prop := ∀ l p overload, r = .level l p overload → l ≤ 1400

theorem SliceResult.InScale.energy {l p : Nat} {overload : Bool} (h : (SliceResult.level l p overload).InScale) :
    inScale (energy l) :=
  energy_bounds (h l p overload rfl)

/-- What a deadline hands on lies in the scale (R32, R37). -/
theorem deadlineLink_inScale {lossCount : Nat} {ch : ChannelState} {r : SliceResult}
    (h : (deadlineLink lossCount ch).2 = some r) : r.InScale := by
  rintro l p overload rfl
  rcases deadlineLink_cases lossCount ch with ⟨-, h1⟩ | ⟨r, -, hr, h1⟩ <;> rw [h1] at h
  · cases h
  · cases h
    obtain ⟨-, hl, -⟩ := interpret_level (linkDeadline_level hr)
    exact hl

@[simp] theorem Interval.recompute_energyOk {iv : Interval} {warnFraction : Nat} :
    (iv.recompute warnFraction).EnergyOk ↔ iv.EnergyOk := Iff.rfl

theorem openInterval_energyOk (x : SliceContext) : (openInterval x).EnergyOk := ⟨Nat.zero_le _, Nat.zero_le _⟩

theorem intervalFor_energyOk (x : SliceContext) {interval : Option Interval}
    (h : ∀ iv, interval = some iv → iv.EnergyOk) : (intervalFor x interval).EnergyOk := by
  cases interval with
  | none => exact openInterval_energyOk x
  | some iv =>
    simp only [intervalFor]
    split
    · exact openInterval_energyOk x
    · exact h iv rfl

/-- The energy that `n` slices of a background give, and the slices that it counts. -/
theorem background_le {bg : Option Nat} (h : ∀ b, bg = some b → inScale b) (n : Nat) :
    n * bg.getD 0 ≤ (if bg.isSome then n else 0) * 10 ^ 16 := by
  cases bg with
  | none => simp
  | some b => exact Nat.mul_le_mul_left n (h b rfl).2

/-- The add of a slice gives the sums at most one energy of the scale each (R60, R61). -/
theorem Interval.add_energyOk {iv : Interval} (h : iv.EnergyOk) (x : SliceContext) {r : SliceResult} (hr : r.InScale)
    {bg : Option Nat} (hbg : ∀ b, bg = some b → inScale b) : (iv.add x r bg).EnergyOk := by
  obtain ⟨htot, hsum⟩ := h
  cases r with
  | missing => exact ⟨htot, hsum⟩
  | cal => exact ⟨htot, hsum⟩
  | level l p overload =>
    have hb := background_le hbg 1
    have he := hr.energy.2
    simp only [Interval.nacc] at htot
    simp only [Interval.add, Interval.addLevel, Interval.addSlice, Interval.EnergyOk, Interval.nacc]
    omega

/-- A fill gives the sums at most one energy of the scale for each slice (R86, R87). -/
theorem Interval.conceal_energyOk {iv : Interval} (h : iv.EnergyOk) (n : Nat) {ec : Nat} (hec : ec ≤ 10 ^ 16)
    {bg : Option Nat} (hbg : ∀ b, bg = some b → inScale b) : (iv.conceal n ec bg).EnergyOk := by
  obtain ⟨htot, hsum⟩ := h
  have hb := background_le hbg n
  have he := Nat.mul_le_mul_left n hec
  simp only [Interval.nacc] at htot
  simp only [Interval.conceal, Interval.EnergyOk, Interval.nacc]
  omega

/-! ### Background and gap run (R47, R49, R82, R108) -/

theorem Estimator.valid_eq_some {e : Estimator} {bgMin b : Nat} (h : e.valid bgMin = some b) : e.eb = some b := by
  unfold Estimator.valid at h
  split at h
  · exact h
  · cases h

/-- Each update leaves the average between energies of the scale (R47, R107). -/
theorem Estimator.step_bounds {e : Estimator} (heb : ∀ b, e.eb = some b → inScale b) (hnq : e.nq ≤ 65535) (quiet : Bool)
    {r : SliceResult} (hr : r.InScale) (shift : Nat) :
    (∀ b, (e.step quiet r shift).eb = some b → inScale b) ∧ (e.step quiet r shift).nq ≤ 65535 := by
  cases r with
  | missing => exact ⟨heb, hnq⟩
  | cal => exact ⟨heb, hnq⟩
  | level l p overload =>
    obtain ⟨hlo, hhi⟩ := hr.energy
    simp only [Estimator.step]
    split
    · refine ⟨fun b hb => ?_, satInc16_le _⟩
      rw [← Option.some.inj hb]
      cases hold : e.eb with
      | none => exact ⟨hlo, hhi⟩
      | some old =>
        obtain ⟨hlo', hhi'⟩ := heb old hold
        obtain ⟨hmin, hmax⟩ := backgroundStep_between old (energy l) shift
        exact ⟨(Nat.le_min.2 ⟨hlo', hlo⟩).trans hmin, hmax.trans (Nat.max_le.2 ⟨hhi', hhi⟩)⟩
    · exact ⟨heb, hnq⟩

theorem energyBefore_eq_some {prev : Option PrevResult} {e : Nat} (h : energyBefore prev = some e) :
    prev = some (.level e) := by
  unfold energyBefore at h
  split at h <;> cases h
  rfl

theorem SliceResult.prev_inScale {r : SliceResult} (hr : r.InScale) {e : Nat} (h : r.prev = .level e) : inScale e := by
  cases r with
  | missing => cases h
  | cal => cases h
  | level l p overload =>
    cases h
    exact hr.energy

/-- The energy before the run that reaches the gap-run step lies in the scale. -/
theorem closeStep_gap_before {ch : ChannelState} (h : ch.EnergyOk) {x : SliceContext} {c : Channel} {g : GapRun}
    (hg : (closeStep x c ch).1.gap = some g) {e : Nat} (he : g.before = some e) : inScale e := by
  obtain ⟨-, -, -, -, -, hbefore⟩ := h
  obtain ⟨g₀, hg₀, rfl | ⟨rfl, -⟩⟩ := closeStep_gap_eq_some hg
  · exact hbefore g₀ e hg₀ he
  · exact hbefore g e hg₀ he

/-! ### Events (R46, R116 to R123) -/

theorem openEvent_ok {l hold : Nat} (hl : energy l ≤ 10 ^ 16) (hhold : 1 ≤ hold ∧ hold ≤ 255) (t : Time) (iv : Interval)
    (p : Nat) : (openEvent t hold iv l p).Ok := by
  refine ⟨le_rfl, le_rfl, (by decide : 1 < 65535), hhold.1, hhold.2, ?_⟩
  simpa [openEvent, Event.pendingEnergy] using hl

/-- A retrigger adds to the sum what was pending and the slice (R121). -/
theorem Event.retrigger_ok {e : Event} (h : e.Ok) {l hold : Nat} (hl : energy l ≤ 10 ^ 16)
    (hhold : 1 ≤ hold ∧ hold ≤ 255) (hage : e.age + 1 < 65535) (t : Time) (p : Nat) : (e.retrigger t hold l p).Ok := by
  obtain ⟨-, -, -, -, -, hsum⟩ := h
  have hpending : e.pendingEnergy = (e.pending.getD ⟨0, 0, 0⟩).energy := by
    unfold Event.pendingEnergy
    cases e.pending <;> rfl
  refine ⟨Nat.succ_pos _, le_rfl, hage, hhold.1, hhold.2, ?_⟩
  simp only [Event.retrigger, Event.pendingEnergy, Option.map_none, Option.getD_none]
  omega

/-- A slice that does not trigger gives at most one energy of the scale to the pending (R122). -/
theorem Event.countDown_pendingEnergy (e : Event) {r : SliceResult} (hr : r.InScale) :
    (e.countDown r).pendingEnergy ≤ e.pendingEnergy + 10 ^ 16 := by
  cases r with
  | missing => exact Nat.le_add_right _ _
  | cal => exact Nat.le_add_right _ _
  | level l p overload =>
    have hl := hr.energy.2
    unfold Event.pendingEnergy
    cases hold : e.pending with
    | none => simpa [Event.countDown, takePending, hold] using hl
    | some q => simpa [Event.countDown, takePending, hold] using hl

theorem Event.countDown_ok {e : Event} (h : e.Ok) {r : SliceResult} (hr : r.InScale) (hhold : e.hold - 1 ≠ 0)
    (hage : e.age + 1 < 65535) : (e.countDown r).Ok := by
  obtain ⟨hdur, hle, -, -, hmax, hsum⟩ := h
  have hpending := e.countDown_pendingEnergy hr
  refine ⟨hdur, hle.trans (Nat.le_succ _), hage, Nat.pos_of_ne_zero hhold, (Nat.sub_le _ _).trans hmax, ?_⟩
  have hnew : (e.countDown r).sum = e.sum ∧ (e.countDown r).age = e.age + 1 := ⟨rfl, rfl⟩
  omega

theorem settleEvent_event {c : Channel} {iv : Interval} {e e' : Event} {cause : Option Cause}
    (h : (settleEvent c iv e cause).event = some e') : cause = none ∧ e' = e := by
  cases cause with
  | none => exact ⟨rfl, (Option.some.inj h).symm⟩
  | some k => cases h

/-- An event that an account leaves open keeps its bounds: one whose hold has run out or whose age is reached is
closed (R123). -/
theorem eventStep_ok {x : SliceContext} (hhold : 1 ≤ x.settings.eventHold ∧ x.settings.eventHold ≤ 255) (c : Channel)
    (iv : Interval) {event : Option Event} (h : ∀ e, event = some e → e.Ok) {r : SliceResult} (hr : r.InScale)
    {e' : Event} (he' : (eventStep x c iv event r).event = some e') : e'.Ok := by
  cases event with
  | none =>
    rcases eventStep_idle_cases x c iv r with ⟨-, h1⟩ | ⟨l, p, overload, rfl, -, h1⟩ <;> rw [h1] at he' <;> cases he'
    exact openEvent_ok hr.energy.2 hhold _ _ _
  | some e =>
    change (openContextStep x c iv e r).event = some e' at he'
    rcases openContextStep_cases x c iv e r with ⟨l, p, overload, rfl, -, h1⟩ | ⟨-, h1⟩ <;> rw [h1] at he' <;>
      obtain ⟨hcause, rfl⟩ := settleEvent_event he'
    · have hage : ¬65535 ≤ e.age + 1 := fun hage => by simp [hage] at hcause
      exact Event.retrigger_ok (h e rfl) hr.energy.2 hhold (by omega) _ _
    · have hrun : e.hold - 1 ≠ 0 := fun hrun => by simp [hrun] at hcause
      have hage : ¬65535 ≤ e.age + 1 := fun hage => by simp [hrun, hage] at hcause
      exact Event.countDown_ok (h e rfl) hr hrun (by omega)

/-! ### The account of a slice (R58) -/

section
variable {ch : ChannelState}

/-- The background that an account adds lies in the scale. -/
theorem ChannelState.EnergyOk.valid (h : ch.EnergyOk) {bgMin b : Nat} (hb : ch.background.valid bgMin = some b) :
    inScale b := by
  obtain ⟨-, -, heb, -⟩ := h
  exact heb b (Estimator.valid_eq_some hb)

theorem addedInterval_energyOk (h : ch.EnergyOk) (x : SliceContext) {r : SliceResult} (hr : r.InScale) :
    (addedInterval x ch r).EnergyOk :=
  Interval.add_energyOk (intervalFor_energyOk x h.1) x hr fun _ hb => h.valid hb

/-- Filled or not, the sums keep their bounds: the concealment energy is a mean of two energies of the scale (R49). -/
theorem accountGap_energyOk (h : ch.EnergyOk) (x : SliceContext) (c : Channel) {r : SliceResult} (hr : r.InScale) :
    (accountGap x c ch r).interval.EnergyOk := by
  have hadd := addedInterval_energyOk h x hr
  rcases gapStep_interval x c (closeStep x c ch).1.gap ch.prev (addedInterval x ch r) r
    (ch.background.valid x.settings.bgMin) with h1 | ⟨g, l, p, overload, hg, rfl, hrefusal, h1⟩ <;>
    rw [accountGap, h1]
  · exact hadd
  · obtain ⟨⟨e, he⟩, -⟩ := GapRun.of_refusal_none hrefusal
    have hbefore := (closeStep_gap_before h hg he).2
    have hafter := hr.energy.2
    rw [Interval.recompute_energyOk, he, Option.getD_some]
    refine Interval.conceal_energyOk hadd _ ?_ fun _ hb => h.valid hb
    unfold concealEnergy
    omega

/-- The run that an account leaves has its energy before from the previous result, or from the run it extends (R82,
R83). -/
theorem accountGap_before (h : ch.EnergyOk) (x : SliceContext) (c : Channel) (r : SliceResult) {g : GapRun} {e : Nat}
    (hg : (accountGap x c ch r).gap = some g) (he : g.before = some e) : inScale e := by
  rw [accountGap, gapStep_gap] at hg
  split at hg
  · cases hold : (closeStep x c ch).1.gap with
    | none =>
      rw [hold] at hg
      cases hg
      obtain ⟨-, -, -, -, hprev, -⟩ := h
      exact hprev e (energyBefore_eq_some he)
    | some g₀ =>
      rw [hold] at hg
      cases hg
      exact closeStep_gap_before h hold he
  · cases hg

/-- An account keeps the energies in their bounds. -/
theorem account_energyOk (h : ch.EnergyOk) {x : SliceContext}
    (hhold : 1 ≤ x.settings.eventHold ∧ x.settings.eventHold ≤ 255) (c : Channel) {r : SliceResult} (hr : r.InScale) :
    (account x c ch r).ch.EnergyOk := by
  obtain ⟨n, hiv⟩ := eventStep_interval x c (accountGap x c ch r).interval ch.event r
  have ⟨_, hevent, heb, hnq, _, _⟩ := h
  obtain ⟨heb', hnq'⟩ := Estimator.step_bounds heb hnq x.quiet hr x.settings.bgShift
  rw [account_eq]
  refine ⟨fun iv hsome => ?_, fun e he => eventStep_ok hhold c _ hevent hr he, heb', hnq', fun e he => ?_,
    fun g e hg he => accountGap_before h x c r hg he⟩
  · rw [← Option.some.inj hsome, accountEvent, hiv]
    exact accountGap_energyOk h x c hr
  · exact SliceResult.prev_inScale hr (Option.some.inj he)

/-! ### Timed commands -/

/-- A channel with no open work and no previous result holds no energy but its background's. -/
theorem ChannelState.energyOk_of_idle (hinterval : ch.interval = none) (hgap : ch.gap = none) (hevent : ch.event = none)
    (hprev : ch.prev = none) (heb : ∀ e, ch.background.eb = some e → inScale e) (hnq : ch.background.nq ≤ 65535) :
    ch.EnergyOk := by
  unfold ChannelState.EnergyOk
  rw [hinterval, hgap, hevent, hprev]
  exact ⟨by simp, by simp, heb, hnq, by simp, by simp⟩

theorem Estimator.reset_bounds : (∀ e, Estimator.reset.eb = some e → inScale e) ∧ Estimator.reset.nq ≤ 65535 :=
  ⟨nofun, Nat.zero_le _⟩

/-- A channel that is left with no open work and a reset background holds no energy (R106). -/
theorem ChannelState.energyOk_of_reset (hinterval : ch.interval = none) (hgap : ch.gap = none) (hevent : ch.event = none)
    (hprev : ch.prev = none) (hbackground : ch.background = Estimator.reset) : ch.EnergyOk := by
  obtain ⟨heb, hnq⟩ := Estimator.reset_bounds
  refine ChannelState.energyOk_of_idle hinterval hgap hevent hprev ?_ ?_ <;> rw [hbackground]
  · exact heb
  · exact hnq

theorem ChannelWork.cut_energyOk {w : ChannelWork} (h : w.ch.EnergyOk) (c : Channel) : (w.cut c).ch.EnergyOk := by
  rcases w.cut_cases c with ⟨-, h1⟩ | ⟨_, -, -, h1, -⟩ <;> rw [h1]
  · exact h
  · obtain ⟨-, -, heb, hnq, hprev, hbefore⟩ := h
    refine ⟨by simp, by simp, heb, hnq, hprev, fun g e hg he => ?_⟩
    obtain ⟨g₀, hg₀, rfl⟩ := Option.map_eq_some_iff.1 hg
    exact hbefore g₀ e hg₀ he

/-- No timed command takes an energy out of its bounds (R38, R39, R65, R182). -/
theorem ChannelWork.takeTimed_energyOk {w : ChannelWork} (h : w.ch.EnergyOk) (timed : Option Timed) (c : Channel) :
    (w.takeTimed timed c).ch.EnergyOk := by
  have ⟨hinterval, hevent, heb, hnq, _, hbefore⟩ := h
  unfold ChannelWork.takeTimed
  split
  · exact h
  · rw [w.closeAll_ch]
    exact ChannelState.energyOk_of_idle rfl rfl rfl rfl heb hnq
  · split
    · exact ChannelWork.cut_energyOk h c
    · exact h
  · split
    · obtain ⟨heb', hnq'⟩ := Estimator.reset_bounds
      exact ⟨hinterval, hevent, heb', hnq', nofun, hbefore⟩
    · exact h
  · split
    · dsimp only
      rw [w.closeAll_ch]
      exact ChannelState.energyOk_of_reset rfl rfl rfl rfl rfl
    · exact h
  · dsimp only
    rw [w.closeAll_ch]
    exact ChannelState.energyOk_of_reset rfl rfl rfl rfl rfl

/-! ### Frames and deadlines -/

theorem acceptReport_energyOk (h : ch.EnergyOk) (syncTag : Option Byte) (tag : Byte) (report : Report) :
    (acceptReport syncTag tag report ch).EnergyOk := by
  rcases acceptReport_cases syncTag tag report ch with h1 | ⟨-, h1 | h1 | h1⟩ <;> rw [h1] <;> exact h

theorem deadlineLink_energyOk (h : ch.EnergyOk) (lossCount : Nat) : (deadlineLink lossCount ch).1.EnergyOk := by
  rw [deadlineLink_frame]
  exact h

theorem ChannelState.rewarn_energyOk (h : ch.EnergyOk) (v : Nat) : (ch.rewarn v).EnergyOk := by
  obtain ⟨hinterval, hrest⟩ := h
  refine ⟨fun iv hiv => ?_, hrest⟩
  obtain ⟨iv₀, hiv₀, rfl⟩ := Option.map_eq_some_iff.1 hiv
  exact hinterval iv₀ hiv₀

end

section
variable {s : State} {c : Channel}

theorem endFrame_energyOk (h : (s.channel c).EnergyOk) (heard : List Byte) :
    ((endFrame heard s).channel c).EnergyOk := by
  rcases endFrame_channel heard s c with h1 | ⟨_, _, _, h1⟩ <;> rw [h1]
  · exact h
  · exact acceptReport_energyOk h _ _ _

theorem deadline_energyOk (hhold : 1 ≤ s.settings.eventHold ∧ s.settings.eventHold ≤ 255)
    (h : (s.channel c).EnergyOk) (heard : List Byte) : (deadline (frameAtBoundary heard s) c).ch.EnergyOk := by
  have hframe : ((frameAtBoundary heard s).channel c).EnergyOk := by
    rcases frameAtBoundary_channel heard s c with h1 | ⟨_, _, _, h1⟩ <;> rw [h1]
    · exact h
    · exact acceptReport_energyOk h _ _ _
  have hlink := deadlineLink_energyOk hframe s.settings.lossCount
  rcases deadline_cases heard s c with ⟨-, _, h1, rfl | rfl⟩ | ⟨ended, r, -, -, -, hr, h1⟩ <;> rw [h1]
  · exact hframe
  · exact hlink
  · exact account_energyOk (x := s.sliceContext ended.tag) (by exact hlink) hhold c (deadlineLink_inScale hr)

end

/-! ### Every step -/

theorem exec_energyOk {i : Instr} {s t : State} (hhold : 1 ≤ s.settings.eventHold ∧ s.settings.eventHold ≤ 255)
    (h : ∀ c, (s.channel c).EnergyOk) (ht : exec i s = .next t) (c : Channel) : (t.channel c).EnergyOk := by
  unfold State.channel
  rcases exec_channels ht with h1 | h1 | h1 | ⟨heard, h1⟩ | ⟨heard, -, h1⟩ | h1 | ⟨v, h1⟩ <;> rw [h1]
  · exact h c
  · rw [Oct.get_fill]
    exact ChannelState.energyOk_of_reset rfl rfl rfl rfl rfl
  · rw [Oct.get_map]
    obtain ⟨-, -, heb, hnq, -, -⟩ := h c
    exact ChannelState.energyOk_of_idle rfl rfl rfl rfl heb hnq
  · exact endFrame_energyOk (h c) heard
  · rw [boundaryWork_channels, Oct.get_ofFn]
    exact ChannelWork.takeTimed_energyOk (deadline_energyOk hhold (h c) heard) _ c
  · rw [Oct.get_map]
    exact h c
  · rw [Oct.get_map]
    exact ChannelState.rewarn_energyOk (h c) v

/-- EVENT_HOLD stays in its range (R116, R129). -/
theorem exec_eventHold {i : Instr} {s t : State} (h : 1 ≤ s.settings.eventHold ∧ s.settings.eventHold ≤ 255)
    (ht : exec i s = .next t) : 1 ≤ t.settings.eventHold ∧ t.settings.eventHold ≤ 255 := by
  rcases exec_settings ht with h1 | h1 | ⟨_, _, h1⟩ | ⟨_, _, _, -, -, -, h1⟩ | ⟨hold, _, hhold, -, h1⟩ | ⟨_, -, h1⟩ <;>
    rw [h1]
  · exact h
  · decide
  · exact h
  · exact h
  · exact hhold
  · exact h

/-- Every command keeps the energies of every channel in their bounds. -/
theorem exec_energiesOk {i : Instr} {s t : State} (h : s.EnergiesOk) (ht : exec i s = .next t) : t.EnergiesOk := by
  obtain ⟨hhold, hwork, henergy⟩ := h
  exact ⟨exec_eventHold hhold ht, exec_workOk hwork ht, exec_energyOk hhold henergy ht⟩

/-! ### 80 bits (R46) -/

/-- At most 28800 slices give energy to an interval, so neither sum reaches 2^80. -/
theorem Interval.sums_lt {iv : Interval} (hcounts : iv.CountsOk) (henergy : iv.EnergyOk) :
    iv.sumTot < 2 ^ 80 ∧ iv.sumBg < 2 ^ 80 := by
  obtain ⟨hsum, -, hle, hmax, hnbg, -⟩ := hcounts
  obtain ⟨htot, hbg⟩ := henergy
  unfold Interval.nacc at htot hnbg
  omega

/-- An open event is younger than 65535 slices, so its sum with what is pending does not reach 2^80. -/
theorem Event.sum_lt {e : Event} (h : e.Ok) : e.sum + e.pendingEnergy < 2 ^ 80 := by
  obtain ⟨-, -, hage, -, -, hsum⟩ := h
  omega

/-- Settles O58: every command keeps the bounds, and the bounds leave every sum below 2^80. -/
theorem accumulatorsStayWithin80Bits : Obligations.AccumulatorsStayWithin80Bits := by
  intro s t h ht
  have hok : t.EnergiesOk := by
    rcases step_cases ht with ⟨-, rfl⟩ | ⟨i, rest, -, he⟩
    · exact h
    · exact exec_energiesOk (s := { s with pending := rest }) h he
  have ⟨_, hwork, henergy⟩ := hok
  exact ⟨hok, fun c iv hiv => Interval.sums_lt ((hwork c).1 iv hiv) ((henergy c).1 iv hiv),
    fun c e he => Event.sum_lt ((henergy c).2.1 e he)⟩

end Sys2Proof.Machine
end

section
/-! PROOFS. The counts of the open intervals, which every step keeps, and the assessment of an interval at its close. -/

namespace Sys2Proof.Machine

/-! ### Open intervals (R54, R55) -/

/-- Settles O57: an idling step leaves the state, and every command keeps the open work fitted together. -/
theorem countsOfOpenIntervalsAddUp : Obligations.CountsOfOpenIntervalsAddUp := by
  intro s t h ht
  rcases step_cases ht with ⟨-, rfl⟩ | ⟨i, rest, -, hexec⟩
  · exact h
  · exact exec_workOk (s := { s with pending := rest }) h hexec

/-! ### The assessment (R71 to R75) -/

theorem mean_of_pos {n : Nat} (h : n ≠ 0) (sum : Nat) : mean sum n = some (sum / n) := if_neg h

theorem meanLevel_eq (sum n : Nat) : meanLevel sum n = if n = 0 then none else some (lconv (sum / n)) := by
  unfold meanLevel mean
  split <;> rfl

theorem Interval.isInvalid_eq_true {iv : Interval} :
    iv.isInvalid = true ↔ iv.elapsed - iv.cal = 0 ∨ iv.nacc * 4 < (iv.elapsed - iv.cal) * 3 := decide_eq_true_iff

/-- An interval that is not INVALID has slices that gave energy (R72). -/
theorem Interval.nacc_pos_of_valid {iv : Interval} (h : iv.isInvalid = false) : 0 < iv.nacc := by
  have hvalid := mt Interval.isInvalid_eq_true.2 (Bool.eq_false_iff.1 h)
  omega

theorem assess_of_invalid {iv : Interval} (h : iv.isInvalid = true) :
    assess iv = ⟨.invalid, meanLevel iv.sumTot iv.nacc, meanLevel iv.sumBg iv.nbg, none, true, false, false⟩ := if_pos h

/-- A valid interval is assessed on its mean energy, for it has one (R71, R73). -/
theorem assess_of_valid {iv : Interval} (h : iv.isInvalid = false) :
    assess iv = assessValid iv (iv.sumTot / iv.nacc) ((mean iv.sumBg iv.nbg).getD 0) := by
  rw [assess, if_neg (Bool.eq_false_iff.1 h), mean_of_pos (Interval.nacc_pos_of_valid h).ne', Option.getD_some]

/-- Without a background for half of its slices it is judged on its total level (R73). -/
theorem assess_of_noBackground {iv : Interval} (h : iv.isInvalid = false) (hbg : iv.nbg * 2 < iv.nacc) :
    assess iv = ⟨limitVerdict (lconv (iv.sumTot / iv.nacc)) iv.limit .exceeded, some (lconv (iv.sumTot / iv.nacc)), none,
      some (lconv (iv.sumTot / iv.nacc)), false, true, false⟩ := by
  rw [assess_of_valid h, assessValid, if_pos hbg]

/-- With one, it is judged on the site level that the band of its two mean levels gives (R74, R75). -/
theorem assess_of_siteLevel {iv : Interval} (h : iv.isInvalid = false) (hbg : iv.nacc ≤ iv.nbg * 2) {lsite : Nat}
    (hsite : siteLevel (correctionBand (lconv (iv.sumTot / iv.nacc)) (lconv (iv.sumBg / iv.nbg))) (iv.sumTot / iv.nacc)
      (iv.sumBg / iv.nbg) = some lsite) :
    assess iv = ⟨limitVerdict lsite iv.limit .exceeded, some (lconv (iv.sumTot / iv.nacc)),
      some (lconv (iv.sumBg / iv.nbg)), some lsite, false, false, false⟩ := by
  have hnacc := Interval.nacc_pos_of_valid h
  rw [assess_of_valid h, mean_of_pos (by omega), Option.getD_some, assessValid, if_neg (Nat.not_lt.2 hbg)]
  dsimp only
  rw [hsite]

/-- Where the band gives no site level, the total level decides between COMPLIANT and INDETERMINATE (R75). -/
theorem assess_of_dominated {iv : Interval} (h : iv.isInvalid = false) (hbg : iv.nacc ≤ iv.nbg * 2)
    (hsite : siteLevel (correctionBand (lconv (iv.sumTot / iv.nacc)) (lconv (iv.sumBg / iv.nbg))) (iv.sumTot / iv.nacc)
      (iv.sumBg / iv.nbg) = none) :
    assess iv = ⟨limitVerdict (lconv (iv.sumTot / iv.nacc)) iv.limit .indeterminate,
      some (lconv (iv.sumTot / iv.nacc)), some (lconv (iv.sumBg / iv.nbg)), none, false, false, true⟩ := by
  have hnacc := Interval.nacc_pos_of_valid h
  rw [assess_of_valid h, mean_of_pos (by omega), Option.getD_some, assessValid, if_neg (Nat.not_lt.2 hbg)]
  dsimp only
  rw [hsite]

theorem correctionBand_uncorrected {ltot lbg : Nat} (h : 100 ≤ (ltot : Int) - lbg) :
    correctionBand ltot lbg = .uncorrected := if_pos h

theorem correctionBand_corrected {ltot lbg : Nat} (hlo : 30 ≤ (ltot : Int) - lbg) (hhi : (ltot : Int) - lbg ≤ 99) :
    correctionBand ltot lbg = .corrected := (if_neg (by omega)).trans (if_pos hlo)

theorem correctionBand_dominated {ltot lbg : Nat} (h : (ltot : Int) - lbg ≤ 29) :
    correctionBand ltot lbg = .dominated := (if_neg (by omega)).trans (if_neg (by omega))

/-- Settles O54: INVALID, without a background, and with one in each band of D. -/
theorem assessmentGivesTheVerdict : Obligations.AssessmentGivesTheVerdict := by
  intro iv
  dsimp only
  refine ⟨fun hbad => ?_, fun hbase hmost => ?_⟩
  · rw [assess_of_invalid (Interval.isInvalid_eq_true.2 hbad), meanLevel_eq, meanLevel_eq]
    rfl
  · have hvalid : iv.isInvalid = false :=
      Bool.eq_false_iff.2 fun h => (Interval.isInvalid_eq_true.1 h).elim hbase (Nat.not_lt.2 hmost)
    exact ⟨fun hbg => assess_of_noBackground hvalid (Nat.not_le.1 hbg),
      fun hbg hd => assess_of_siteLevel hvalid hbg (congrArg (siteLevel · _ _) (correctionBand_uncorrected hd)),
      fun hbg hlo hhi => assess_of_siteLevel hvalid hbg (congrArg (siteLevel · _ _) (correctionBand_corrected hlo hhi)),
      fun hbg hd => assess_of_dominated hvalid hbg (congrArg (siteLevel · _ _) (correctionBand_dominated hd))⟩

end Sys2Proof.Machine
end

section
/-! PROOFS. The account of a slice: what it adds to the interval that takes the slice in, and which gap runs it
conceals. -/

namespace Sys2Proof.Machine

/-! ### The slice that is added (R60 to R63) -/

/-- `iv'` is `iv` with one slice of the context taken in, a slice of any kind, whether or not a gap run is filled with
it: the copied parameters stay, the slice is counted, and the allowance is formed from the sums (R63, R131, R132). -/
structure Interval.TakesIn (x : SliceContext) (iv iv' : Interval) : Prop where
  cls : iv'.cls = iv.cls
  limit : iv'.limit = iv.limit
  length : iv'.length = iv.length
  lmax : iv'.lmax = iv.lmax
  peak : iv'.peak = iv.peak
  cap : iv'.cap = iv.cap
  openTime : iv'.openTime = iv.openTime
  planned : iv'.planned = iv.planned
  short : iv'.short = iv.short
  elapsed : iv'.elapsed = iv.elapsed + 1
  activitySlices : iv'.activitySlices = iv.activitySlices + (if x.active then 1 else 0)
  timeUnset : iv'.timeUnset = (iv.timeUnset || !x.tag.timeValid)
  allowance : iv'.allowance = allowanceState iv.planned iv.limit iv'.sumTot iv'.sumBg x.settings.warnFraction
  rs : iv'.rs = allowanceSlices iv.planned iv.limit iv'.sumTot iv'.sumBg

theorem Interval.takesIn_add (iv : Interval) (x : SliceContext) (r : SliceResult) (bg : Option Nat) :
    iv.TakesIn x ((iv.add x r bg).recompute x.settings.warnFraction) := by
  cases r <;> constructor <;> rfl

/-- A fill with its recompute leaves what the add has done but for the sums and the allowance (R86, R133). -/
theorem Interval.TakesIn.conceal {x : SliceContext} {iv iv' : Interval} (h : iv.TakesIn x iv') (n ec : Nat)
    (bg : Option Nat) : iv.TakesIn x ((iv'.conceal n ec bg).recompute x.settings.warnFraction) where
  cls := h.cls
  limit := h.limit
  length := h.length
  lmax := h.lmax
  peak := h.peak
  cap := h.cap
  openTime := h.openTime
  planned := h.planned
  short := h.short
  elapsed := h.elapsed
  activitySlices := h.activitySlices
  timeUnset := h.timeUnset
  allowance := by rw [← h.planned, ← h.limit]; rfl
  rs := by rw [← h.planned, ← h.limit]; rfl

theorem Interval.TakesIn.withEventCount {x : SliceContext} {iv iv' : Interval} (h : iv.TakesIn x iv') (n : Nat) :
    iv.TakesIn x { iv' with eventCount := n } := by
  obtain ⟨⟩ := h
  constructor <;> assumption

theorem raise_eq (old : Option Nat) (new : Nat) : raise old new = some (max (old.getD 0) new) := by
  cases old with
  | none => simp [raise]
  | some m => rw [raise, Option.getD_some, max_def_lt]

/-- The estimator takes a quiet LEVEL (R107). -/
theorem Estimator.step_quiet (e : Estimator) (l p : Nat) (overload : Bool) (shift : Nat) :
    e.step true (.level l p overload) shift = ⟨some (backgroundStep e.eb (energy l) shift), min 65535 (e.nq + 1)⟩ := by
  rw [← satInc16_eq]
  rfl

/-- It takes no other result (R107). -/
theorem Estimator.step_other {e : Estimator} {quiet : Bool} {r : SliceResult}
    (h : (∀ l p overload, r ≠ .level l p overload) ∨ quiet = false) (shift : Nat) : e.step quiet r shift = e := by
  cases r with
  | level l p overload =>
    obtain rfl := h.resolve_left fun hr => hr l p overload rfl
    rfl
  | missing => rfl
  | cal => rfl

/-! ### The runs that an account conceals (R84, R85) -/

/-- The close check closes the open interval before a slice of the context is added (R59). -/
def ClosesFirst (x : SliceContext) (interval : Option Interval) : Prop :=
  ∃ old, interval = some old ∧ (old.elapsed = old.planned ∨ x.tag.cls ≠ old.cls)

/-- The account of the result `r` conceals the run: a LEVEL ends it, and all four conditions hold (R85). -/
def Conceals (x : SliceContext) (gap : Option GapRun) (interval : Option Interval) (r : SliceResult) : Prop :=
  ∃ g l p overload, gap = some g ∧ r = .level l p overload ∧ g.length ≤ x.settings.concealMax ∧ g.before ≠ none ∧
    (g.homeOpen = true ∧ ¬ClosesFirst x interval) ∧ g.atStart = false

theorem GapRun.refusal_eq_none {g : GapRun} {concealMax : Nat} :
    g.refusal concealMax = none ↔
      g.length ≤ concealMax ∧ g.before ≠ none ∧ g.homeOpen = true ∧ g.atStart = false := by
  unfold GapRun.refusal
  repeat' split
  all_goals simp_all

/-- A run whose home is still open after the close check is the channel's own, and nothing was closed (R84). -/
theorem closeStep_gap_open {x : SliceContext} {c : Channel} {ch : ChannelState} {g : GapRun}
    (hg : (closeStep x c ch).1.gap = some g) (hopen : g.homeOpen = true) :
    ch.gap = some g ∧ ¬ClosesFirst x ch.interval := by
  have hclosed : ch.closed.gap ≠ some g := by
    intro h
    obtain ⟨g₀, -, rfl⟩ := Option.map_eq_some_iff.1 h
    cases hopen
  rcases closeStep_cases x c ch with ⟨hiv, h1⟩ | ⟨_, -, -, h1⟩ | ⟨_, -, -, -, h1⟩ | ⟨iv, hiv, hlen, hcls, h1⟩ <;>
    rw [h1] at hg
  · exact ⟨hg, fun ⟨_, hold, _⟩ => by simp [hiv] at hold⟩
  · exact absurd hg hclosed
  · exact absurd hg hclosed
  · refine ⟨hg, fun ⟨old, hold, hor⟩ => ?_⟩
    obtain rfl := Option.some.inj (hiv.symm.trans hold)
    exact hor.elim hlen (absurd hcls)

/-! ### The interval after an account (R58) -/

section
variable {x : SliceContext} {c : Channel} {ch : ChannelState} {r : SliceResult} {iv iv' : Interval}

/-- The interval that an account leaves: the one the slice was added to, or with it the fill of a concealed run; the event
step changes at most its event count. -/
theorem account_interval_cases (hiv : intervalFor x ch.interval = iv)
    (h : (account x c ch r).ch.interval = some iv') :
    (∃ n, iv' = { (iv.add x r (ch.background.valid x.settings.bgMin)).recompute x.settings.warnFraction with
        eventCount := n }) ∨
      Conceals x ch.gap ch.interval r ∧ ∃ m ec n, iv' =
        { (((iv.add x r (ch.background.valid x.settings.bgMin)).recompute x.settings.warnFraction).conceal m ec
            (ch.background.valid x.settings.bgMin)).recompute x.settings.warnFraction with eventCount := n } := by
  subst hiv
  rw [account_eq] at h
  obtain ⟨n, hn⟩ := eventStep_interval x c (accountGap x c ch r).interval ch.event r
  obtain rfl := (Option.some.inj h).symm.trans hn
  rcases gapStep_interval x c (closeStep x c ch).1.gap ch.prev (addedInterval x ch r) r
    (ch.background.valid x.settings.bgMin) with h1 | ⟨g, l, p, overload, hg, hr, hrefusal, h1⟩
  · exact .inl ⟨n, by rw [accountGap, h1]; rfl⟩
  · obtain ⟨hlength, hbefore, hopen, hstart⟩ := GapRun.refusal_eq_none.1 hrefusal
    obtain ⟨hgap, hcloses⟩ := closeStep_gap_open hg hopen
    exact .inr ⟨⟨g, l, p, overload, hgap, hr, hlength, hbefore, ⟨hopen, hcloses⟩, hstart⟩, _, _, n,
      by rw [accountGap, h1]; rfl⟩

/-- Without a concealment the interval is the one the slice was added to, but for its event count. -/
theorem account_interval_unfilled (hiv : intervalFor x ch.interval = iv)
    (h : (account x c ch r).ch.interval = some iv') (hc : ¬Conceals x ch.gap ch.interval r) :
    ∃ n, iv' = { (iv.add x r (ch.background.valid x.settings.bgMin)).recompute x.settings.warnFraction with
      eventCount := n } :=
  (account_interval_cases hiv h).resolve_right fun hfilled => hc hfilled.1

/-- Only a LEVEL conceals a run (R85, R89). -/
theorem not_conceals_of_not_level {gap : Option GapRun} {interval : Option Interval}
    (hr : ∀ l p overload, r ≠ .level l p overload) : ¬Conceals x gap interval r :=
  fun ⟨_, l, p, overload, _, h, _⟩ => hr l p overload h

theorem account_takesIn (hiv : intervalFor x ch.interval = iv) (h : (account x c ch r).ch.interval = some iv') :
    iv.TakesIn x iv' := by
  have hadd := iv.takesIn_add x r (ch.background.valid x.settings.bgMin)
  rcases account_interval_cases hiv h with ⟨n, rfl⟩ | ⟨-, m, ec, n, rfl⟩
  · exact hadd.withEventCount n
  · exact (hadd.conceal m ec _).withEventCount n

theorem account_background (x : SliceContext) (c : Channel) (ch : ChannelState) (r : SliceResult) :
    (account x c ch r).ch.background = ch.background.step x.quiet r x.settings.bgShift := by
  rw [account_frame]

/-- What a LEVEL raises of its interval, with a concealment or without (R60, R61). -/
theorem account_level {l p : Nat} {overload : Bool} (hiv : intervalFor x ch.interval = iv)
    (h : (account x c ch (.level l p overload)).ch.interval = some iv') :
    iv'.measured = iv.measured + 1 ∧ iv'.cal = iv.cal ∧ iv'.lmaxSoFar = some (max (iv.lmaxSoFar.getD 0) l) ∧
      iv'.peakMax = some (max (iv.peakMax.getD 0) p) ∧ iv'.overload = (iv.overload || overload) ∧
      iv'.lmaxExceeded = (iv.lmaxExceeded || decide (iv.lmax ≤ l)) ∧
      iv'.peakExceeded = (iv.peakExceeded || decide (iv.peak ≤ p)) := by
  rcases account_interval_cases hiv h with ⟨n, rfl⟩ | ⟨-, m, ec, n, rfl⟩ <;>
    exact ⟨rfl, rfl, raise_eq _ _, raise_eq _ _, rfl, rfl, rfl⟩

/-- What a LEVEL adds to the sums, where it conceals no run (R60). -/
theorem account_level_sums {l p : Nat} {overload : Bool} (hiv : intervalFor x ch.interval = iv)
    (h : (account x c ch (.level l p overload)).ch.interval = some iv')
    (hc : ¬Conceals x ch.gap ch.interval (.level l p overload)) :
    iv'.missing = iv.missing ∧ iv'.sumTot = iv.sumTot + energy l ∧
      iv'.sumBg = iv.sumBg + (ch.background.valid x.settings.bgMin).getD 0 ∧
      iv'.nbg = iv.nbg + (if ch.background.valid x.settings.bgMin = none then 0 else 1) := by
  obtain ⟨n, rfl⟩ := account_interval_unfilled hiv h hc
  refine ⟨rfl, rfl, rfl, ?_⟩
  cases hbg : ch.background.valid x.settings.bgMin <;> rfl

/-- A slice without a level raises its own count and nothing that a level raises, and the estimator stands (R62,
R107). -/
theorem account_not_level (hiv : intervalFor x ch.interval = iv) (h : (account x c ch r).ch.interval = some iv')
    (hr : ∀ l p overload, r ≠ .level l p overload) :
    iv'.measured = iv.measured ∧ iv'.missing = iv.missing + (if r = .missing then 1 else 0) ∧
      iv'.cal = iv.cal + (if r = .cal then 1 else 0) ∧ iv'.sumTot = iv.sumTot ∧ iv'.sumBg = iv.sumBg ∧
      iv'.nbg = iv.nbg ∧ iv'.lmaxSoFar = iv.lmaxSoFar ∧ iv'.peakMax = iv.peakMax ∧ iv'.overload = iv.overload ∧
      iv'.lmaxExceeded = iv.lmaxExceeded ∧ iv'.peakExceeded = iv.peakExceeded ∧
      (account x c ch r).ch.background = ch.background := by
  have hbackground := (account_background x c ch r).trans (Estimator.step_other (.inl hr) _)
  obtain ⟨n, rfl⟩ := account_interval_unfilled hiv h (not_conceals_of_not_level hr)
  cases r with
  | level l p overload => exact absurd rfl (hr l p overload)
  | missing => exact ⟨rfl, rfl, rfl, rfl, rfl, rfl, rfl, rfl, rfl, rfl, rfl, hbackground⟩
  | cal => exact ⟨rfl, rfl, rfl, rfl, rfl, rfl, rfl, rfl, rfl, rfl, rfl, hbackground⟩

/-- Exhausted-at is set by the first recompute that gives EXHAUSTED (R134). -/
theorem Interval.recompute_exhaustedAt (iv : Interval) (warnFraction : Nat) :
    (iv.recompute warnFraction).exhaustedAt =
      if iv.exhaustedAt = none ∧ (iv.recompute warnFraction).allowance = .exhausted then some iv.elapsed
      else iv.exhaustedAt := by
  simp only [Interval.recompute, and_comm]

/-- Without a concealment nothing is counted concealed, and the allowance is recomputed once (R132, R134). -/
theorem account_unfilled (hiv : intervalFor x ch.interval = iv) (h : (account x c ch r).ch.interval = some iv')
    (hc : ¬Conceals x ch.gap ch.interval r) :
    iv'.concealed = iv.concealed ∧
      iv'.exhaustedAt =
        if iv.exhaustedAt = none ∧ iv'.allowance = .exhausted then some (iv.elapsed + 1) else iv.exhaustedAt := by
  obtain ⟨n, rfl⟩ := account_interval_unfilled hiv h hc
  cases r <;> exact ⟨rfl, Interval.recompute_exhaustedAt _ _⟩

end

/-! ### The account at a boundary -/

/-- The channel that a result is handed on for is accounted, with its open work and its background as they stood (R24,
R37). -/
theorem deadline_accounts {s : State} {heard : List Byte} {c : Channel} {ended : EndedSlice} {r : SliceResult}
    (hlast : s.timebase.lastSlice = some ended) (hr : s.handedOn heard c = some r) :
    ∃ ch, deadline (frameAtBoundary heard s) c = account (s.sliceContext ended.tag) c ch r ∧
      ch.interval = (s.channel c).interval ∧ ch.gap = (s.channel c).gap ∧ ch.prev = (s.channel c).prev ∧
      ch.event = (s.channel c).event ∧ ch.background = (s.channel c).background := by
  rcases deadline_cases heard s c with ⟨hnone, -⟩ | ⟨ended', r', hlast', -, hr', -, hd⟩
  · rw [hr] at hnone
    cases hnone
  · obtain rfl := Option.some.inj (hlast.symm.trans hlast')
    obtain rfl := Option.some.inj (hr.symm.trans hr')
    refine ⟨_, hd, ?_, ?_, ?_, ?_, ?_⟩ <;> rw [deadlineLink_frame]
    · exact frameAtBoundary_channel_interval heard s c
    · exact frameAtBoundary_channel_gap heard s c
    · exact frameAtBoundary_channel_prev heard s c
    · exact frameAtBoundary_channel_event heard s c
    · exact frameAtBoundary_channel_background heard s c

theorem sliceContext_active {s : State} {t : Tag} :
    (s.sliceContext t).active = true ↔ s.activity.newVerdict.map ActivityVerdict.active = some true := by
  cases h : s.activity.newVerdict <;> simp [State.sliceContext, h]

theorem sliceContext_quiet {s : State} {t : Tag} :
    (s.sliceContext t).quiet = true ↔ s.activity.newVerdict.map ActivityVerdict.quiet = some true := by
  cases h : s.activity.newVerdict <;> simp [State.sliceContext, h]

/-- Settles O44: the boundary leaves the channel as the account of the result handed on does. -/
theorem accountsAddTheSlice : Obligations.AccountsAddTheSlice := by
  intro s heard c ended r iv hclock hnone hlast hr hiv
  obtain ⟨ch, hd, hinterval, hgap, -, -, hbackground⟩ := deadline_accounts hlast hr
  obtain ⟨iv', hiv'⟩ := Option.isSome_iff_exists.1 (account_interval_isSome (s.sliceContext ended.tag) c ch r)
  have hchannel := boundary_channel heard c hnone
  rw [hd] at hchannel
  rw [← hinterval] at hiv ⊢
  rw [← hgap, ← hbackground]
  have htakes := account_takesIn hiv hiv'
  refine ⟨_, iv', exec_boundary heard hclock, ?_⟩
  rw [hchannel]
  refine ⟨hiv', htakes.cls, htakes.limit, htakes.length, htakes.lmax, htakes.peak, htakes.cap, htakes.openTime,
    htakes.planned, htakes.short, htakes.elapsed, ?_, htakes.timeUnset, by rw [account_frame], ?_,
    account_not_level hiv hiv', htakes.allowance, htakes.rs, account_unfilled hiv hiv'⟩
  · rw [htakes.activitySlices]
    simp only [sliceContext_active]
  · rintro l p overload rfl
    obtain ⟨hmeasured, hcal, hlmax, hpeak, hoverload, hlmaxExceeded, hpeakExceeded⟩ := account_level hiv hiv'
    refine ⟨hmeasured, hcal, hlmax, hpeak, hoverload, hlmaxExceeded, hpeakExceeded, account_level_sums hiv hiv',
      fun hquiet => ?_, fun hquiet => ?_⟩ <;> rw [account_background]
    · rw [sliceContext_quiet.2 hquiet]
      exact ch.background.step_quiet l p overload _
    · exact Estimator.step_other (.inr (Bool.eq_false_iff.2 (mt sliceContext_quiet.1 hquiet))) _

end Sys2Proof.Machine
end

section
/-! PROOFS. The close check before the add, the INTERVAL record, and the interval that a slice opens. -/

namespace Sys2Proof.Machine

/-! ### The interval that a slice opens (R56, R57) -/

/-- Every LENGTH divides the day, so no interval reaches past its end (R57). -/
theorem IntervalLength.slices_dvd_day (l : IntervalLength) : l.slices ∣ 691200 := by
  cases l <;> decide

/-- The grid end of a slice of the day lies within the day (R57). -/
theorem add_plannedLength_le {sod length day : Nat} (hdvd : length ∣ day) (hsod : sod < day) :
    sod + plannedLength sod length ≤ day := by
  obtain ⟨n, rfl⟩ := hdvd
  have hn : sod / length + 1 ≤ n := Nat.div_lt_of_lt_mul hsod
  have hgrid : (sod / length + 1) * length ≤ length * n := by
    rw [Nat.mul_comm length]
    exact Nat.mul_le_mul_right _ hn
  unfold plannedLength
  omega

/-- The interval that a slice opens, with that slice taken in (R56, R57, R131). -/
theorem Interval.TakesIn.opened {x : SliceContext} {iv' : Interval} (h : (openInterval x).TakesIn x iv') :
    let k := x.classes.get x.tag.cls
    let sod := x.tag.time.sod.val
    iv'.cls = x.tag.cls ∧ iv'.limit = k.limit ∧ iv'.length = k.length ∧
      iv'.lmax = k.lmax ∧ iv'.peak = k.peak ∧ iv'.cap = x.settings.eventCap ∧ iv'.openTime = x.tag.time ∧
      iv'.planned = (sod / (k.length.minutes * 480) + 1) * (k.length.minutes * 480) - sod ∧
      (iv'.short = true ↔ iv'.planned < k.length.minutes * 480) ∧ iv'.elapsed = 1 ∧
      1 ≤ iv'.planned ∧ iv'.planned ≤ k.length.minutes * 480 ∧ sod + iv'.planned ≤ 691200 := by
  dsimp only
  obtain ⟨hpos, -⟩ := (x.classes.get x.tag.cls).length.slices_bounds
  obtain ⟨hlo, hhi⟩ := plannedLength_bounds x.tag.time.sod.val hpos
  have hend := add_plannedLength_le (x.classes.get x.tag.cls).length.slices_dvd_day x.tag.time.sod.isLt
  rw [h.planned, h.short]
  exact ⟨h.cls, h.limit, h.length, h.lmax, h.peak, h.cap, h.openTime, rfl, decide_eq_true_iff, h.elapsed, hlo, hhi, hend⟩

/-! ### The INTERVAL records of a channel at a boundary (R59, R153) -/

/-- With nothing pending the one INTERVAL record that a boundary can offer of a channel is that of a natural close. -/
theorem mem_batch_interval {heard : List Byte} {s : State} {now : Time} {c : Channel} {o : Offer}
    (hc : o.channel = some c) (hkind : o.body.kind = 1) :
    o ∈ batch (frameAtBoundary heard s) none now ↔ (deadline (frameAtBoundary heard s) c).naturalRecord = some o := by
  obtain ⟨hgap, hevent, -, -⟩ := channelWork_records heard s none c
  obtain ⟨-, -, hforced⟩ := channelWork_intervals heard s none c
  rw [mem_batch_channel hc, channelWork_none, or_iff_left (fun ⟨_, ht, _⟩ => nomatch ht), ChannelWork.mem_records]
  refine ⟨?_, fun hr => .inr (.inr (.inl hr))⟩
  rintro (hr | hr | hr | hr)
  · have := (hgap o hr).2
    omega
  · have := (hevent o hr).2
    omega
  · exact hr
  · exact absurd ((hforced rfl).symm.trans hr) (Option.some_ne_none o).symm

section
variable {x : SliceContext} {c : Channel} {ch : ChannelState} {iv : Interval}

theorem closeStep_of_none (h : ch.interval = none) : closeStep x c ch = (ch, none) := by
  rw [closeStep, h]

/-- At elapsed = P the interval closes by LENGTH, whatever the class of the slice (R59). -/
theorem closeStep_of_length (h : ch.interval = some iv) (hlength : iv.elapsed = iv.planned) :
    closeStep x c ch = (ch.closed, some (intervalOffer c iv .length)) := by
  simp only [closeStep, h, Interval.closeCheck, if_pos hlength]

/-- Below P it closes by CLASS_CHANGE where the slice's class differs (R59). -/
theorem closeStep_of_classChange (h : ch.interval = some iv) (hlength : iv.elapsed ≠ iv.planned)
    (hcls : x.tag.cls ≠ iv.cls) : closeStep x c ch = (ch.closed, some (intervalOffer c iv .classChange)) := by
  simp only [closeStep, h, Interval.closeCheck, if_neg hlength, if_pos hcls]

/-- With neither it stays open (R59). -/
theorem closeStep_of_kept (h : ch.interval = some iv) (hlength : iv.elapsed ≠ iv.planned) (hcls : x.tag.cls = iv.cls) :
    closeStep x c ch = (ch, none) := by
  simp only [closeStep, h, Interval.closeCheck, if_neg hlength, if_neg (not_not.2 hcls)]

theorem intervalFor_of_none (h : ch.interval = none) : intervalFor x ch.interval = openInterval x := by
  rw [h, intervalFor]

theorem intervalFor_of_closes (h : ch.interval = some iv) (hcloses : iv.elapsed = iv.planned ∨ x.tag.cls ≠ iv.cls) :
    intervalFor x ch.interval = openInterval x := by
  rw [h, intervalFor, if_pos hcloses]

theorem intervalFor_of_kept (h : ch.interval = some iv) (hlength : iv.elapsed ≠ iv.planned)
    (hcls : x.tag.cls = iv.cls) : intervalFor x ch.interval = iv := by
  rw [h, intervalFor, if_neg (not_or.2 ⟨hlength, not_not.2 hcls⟩)]

end

/-- Settles O45: the record of a close, and the four ways of the close check before the add. -/
theorem closeCheckComesBeforeTheAdd : Obligations.CloseCheckComesBeforeTheAdd := by
  refine ⟨?_, ?_⟩
  · rintro iv cause _ rfl
    exact ⟨rfl, rfl, rfl, ⟨rfl, rfl, rfl, rfl, rfl⟩, decide_eq_true_iff, ⟨rfl, rfl, rfl⟩, ⟨rfl, rfl, rfl⟩,
      ⟨rfl, rfl, rfl, rfl, rfl⟩, ⟨rfl, rfl, rfl⟩, ⟨rfl, rfl⟩, ⟨rfl, rfl, rfl⟩⟩
  intro s heard c ended r hclock hnone hlast hr
  obtain ⟨ch, hd, hinterval, -⟩ := deadline_accounts hlast hr
  obtain ⟨iv', hiv'⟩ := Option.isSome_iff_exists.1 (account_interval_isSome (s.sliceContext ended.tag) c ch r)
  have hchannel := boundary_channel heard c hnone
  have hbatch := boundaryWork_batch heard s
  rw [hnone] at hbatch
  have hoffers : ∀ {o : Offer}, o.channel = some c → o.body.kind = 1 →
      (o ∈ batch (frameAtBoundary heard s) none (boundaryWork (frameAtBoundary heard s)).timebase.time ↔
        (closeStep (s.sliceContext ended.tag) c ch).2 = some o) := by
    intro o ho hkind
    rw [mem_batch_interval ho hkind, hd, account_eq]
  rw [← hinterval]
  refine ⟨_, iv', _, exec_boundary heard hclock, by rw [hchannel, hd, hiv'], hbatch, batch_ordered heard s none _,
    fun hold => ⟨?_, fun o ho hc hkind => ?_⟩, fun iv hold => ⟨fun hlength => ⟨?_, fun o ho hkind => ?_⟩,
      fun hlength hcls => ⟨?_, fun o ho hkind => ?_⟩, fun hlength hcls => ?_⟩⟩
  · exact (account_takesIn (intervalFor_of_none hold) hiv').opened
  · rw [hoffers hc hkind, closeStep_of_none hold] at ho
    cases ho
  · exact (account_takesIn (intervalFor_of_closes hold (.inl hlength)) hiv').opened
  · rw [hoffers ho hkind, closeStep_of_length hold hlength, Option.some.injEq, eq_comm]
    rfl
  · exact (account_takesIn (intervalFor_of_closes hold (.inr hcls)) hiv').opened
  · rw [hoffers ho hkind, closeStep_of_classChange hold hlength hcls, Option.some.injEq, eq_comm]
    rfl
  · have htakes := account_takesIn (intervalFor_of_kept hold hlength hcls) hiv'
    refine ⟨htakes.openTime, htakes.elapsed, fun o ho hc hkind => ?_⟩
    rw [hoffers hc hkind, closeStep_of_kept hold hlength hcls] at ho
    cases ho

end Sys2Proof.Machine
end

section
/-! PROOFS. SET_GAP, and the gap runs: how an account starts, extends, conceals and ends them, and the GAP record of an
end. -/

namespace Sys2Proof.Machine

/-! ### SET_GAP (R92) -/

theorem gapArg_toNat (v : BitVec 16) : gapArg v.toNat = if v = 0xFFFF#16 then none else some v.toNat := by
  simp only [gapArg, ← BitVec.toNat_inj]
  rfl

theorem gapArg_eq_none {v : BitVec 16} : gapArg v.toNat = none ↔ v = 0xFFFF#16 := by
  rw [gapArg_toNat]
  split <;> simp_all

/-- The rule of SET_GAP on the bytes of its frame. -/
theorem setGapRule_eq (s : State) (conceal loss : BitVec 16) :
    setGapRule .authority (put2 conceal.toNat ++ put2 loss.toNat) s =
      if conceal = 0xFFFF#16 ∧ loss = 0xFFFF#16 then refuse s .range
      else
        let lossCount := storedLossCount s.settings.lossCount (gapArg loss.toNat)
        let concealMax := storedConcealMax s.settings.concealMax lossCount (gapArg conceal.toNat)
        .complete
          (State.offerConfig
            { s with settings := { s.settings with concealMax := concealMax, lossCount := lossCount } }
            .authority (.gapSettings concealMax lossCount))
          .ok (put1 concealMax ++ put1 lossCount) := by
  have hconceal := arg2_append_put2 (put2 loss.toNat) _ conceal.isLt
  have hloss : arg2 (put2 conceal.toNat ++ put2 loss.toNat) 2 = loss.toNat := arg2_append_put2 [] _ loss.isLt
  simp only [setGapRule, hconceal, hloss, gapArg_eq_none]

theorem storedLossCount_gapArg (stored : Nat) (v : BitVec 16) :
    storedLossCount stored (gapArg v.toNat) = if v = 0xFFFF#16 then stored else max 8 (min 255 v.toNat) := by
  rw [gapArg_toNat]
  split
  · rfl
  · exact clamp_eq (by decide)

theorem storedConcealMax_gapArg (stored lossCount : Nat) (v : BitVec 16) :
    storedConcealMax stored lossCount (gapArg v.toNat) =
      let found := if v = 0xFFFF#16 then stored else min 32 v.toNat
      if lossCount ≤ found then lossCount - 1 else found := by
  rw [gapArg_toNat]
  split
  · rfl
  · simp only [storedConcealMax, clamp_eq (Nat.zero_le 32), Nat.zero_max]

/-- Settles O18: the rule refuses where both arguments are absent, and otherwise stores both values. -/
theorem setGapKeepsConcealBelowLoss : Obligations.SetGapKeepsConcealBelowLoss := by
  intro s conceal loss h
  refine ⟨fun habsent => ?_, fun hgiven => ?_⟩
  · refine authorityCommand_refused h rfl (by decide) ?_
    rw [setGapRule_eq, if_pos habsent]
  · refine authorityCommand_answered h rfl (by decide) ?_ rfl
    rw [setGapRule_eq, if_neg (not_and_or.2 hgiven)]
    dsimp only
    rw [storedLossCount_gapArg, storedConcealMax_gapArg]
    rfl

/-! ### The GAP records of a boundary (R91, R153) -/

theorem gapOffer_of_recorded {g : GapRun} (h : 8 ≤ g.length) (c : Channel) (cause : Cause)
    (refusal : Option ConcealRefusal) :
    gapOffer c g cause refusal =
      some ⟨some c, g.start, .gap ⟨g.start, g.last, g.length, cause, refusal, g.before.isSome, g.homeOpenTime⟩⟩ :=
  if_pos h

theorem gapOffer_of_short {g : GapRun} (h : g.length < 8) (c : Channel) (cause : Cause)
    (refusal : Option ConcealRefusal) : gapOffer c g cause refusal = none :=
  if_neg (Nat.not_le.2 h)

section
variable {heard : List Byte} {s : State} {now : Time} {c : Channel}

/-- With nothing pending the one GAP record that a boundary can offer of a channel is that of its account. -/
theorem mem_batch_gap {o : Offer} (hc : o.channel = some c) (hkind : o.body.kind = 3) :
    o ∈ batch (frameAtBoundary heard s) none now ↔ (deadline (frameAtBoundary heard s) c).gapRecord = some o := by
  obtain ⟨-, hevent, hnatural, hforced⟩ := channelWork_records heard s none c
  rw [mem_batch_channel hc, channelWork_none, or_iff_left (fun ⟨_, ht, _⟩ => nomatch ht), ChannelWork.mem_records]
  refine ⟨?_, .inl⟩
  rintro (hr | hr | hr | hr)
  · exact hr
  · have := (hevent o hr).2
    omega
  · have := (hnatural o hr).2
    omega
  · have := (hforced o hr).2
    omega

theorem batch_no_gap (h : (deadline (frameAtBoundary heard s) c).gapRecord = none) :
    ∀ o ∈ batch (frameAtBoundary heard s) none now, o.channel = some c → o.body.kind ≠ 3 := by
  intro o ho hc hkind
  rw [mem_batch_gap hc hkind, h] at ho
  cases ho

/-- A run that ends unconcealed is offered from 8 slices on (R91). -/
theorem batch_gapOffer {g : GapRun} {cause : Cause} {refusal : Option ConcealRefusal}
    (h : (deadline (frameAtBoundary heard s) c).gapRecord = gapOffer c g cause refusal) :
    (8 ≤ g.length →
      ⟨some c, g.start, .gap ⟨g.start, g.last, g.length, cause, refusal, g.before.isSome, g.homeOpenTime⟩⟩ ∈
        batch (frameAtBoundary heard s) none now) ∧
      (g.length < 8 → ∀ o ∈ batch (frameAtBoundary heard s) none now, o.channel = some c → o.body.kind ≠ 3) := by
  refine ⟨fun hlong => ?_, fun hshort => ?_⟩
  · exact (mem_batch_gap rfl rfl).2 (h.trans (gapOffer_of_recorded hlong c cause refusal))
  · exact batch_no_gap (h.trans (gapOffer_of_short hshort c cause refusal))

end

/-! ### The run that an account finds (R84, R85) -/

section
variable {x : SliceContext} {c : Channel} {ch : ChannelState} {g : GapRun} {homeOpen : Bool}

theorem closeStep_gap_of_none (h : ch.gap = none) : (closeStep x c ch).1.gap = none := by
  rcases closeStep_gap x c ch with ⟨-, h1⟩ | ⟨-, h1⟩ <;> rw [h1, h]
  rfl

/-- The close check closes the open interval exactly where it offers its record (R59). -/
theorem closeStep_offers_iff : (closeStep x c ch).2 ≠ none ↔ ClosesFirst x ch.interval := by
  rcases closeStep_cases x c ch with ⟨hiv, h⟩ | ⟨iv, hiv, hlength, h⟩ | ⟨iv, hiv, -, hcls, h⟩ |
    ⟨iv, hiv, hlength, hcls, h⟩ <;> simp_all [ClosesFirst]

/-- The run reaches the gap-run step with its home open where it was and the close check did not close it (R84). -/
theorem closeStep_gap_of_some (h : ch.gap = some g)
    (hopen : homeOpen = true ↔ g.homeOpen = true ∧ ¬ClosesFirst x ch.interval) :
    (closeStep x c ch).1.gap = some { g with homeOpen := homeOpen } := by
  rw [← closeStep_offers_iff (c := c)] at hopen
  rcases closeStep_gap x c ch with ⟨hkept, h1⟩ | ⟨hclosed, h1⟩ <;> rw [h1, h]
  · obtain rfl : homeOpen = g.homeOpen := Bool.eq_iff_iff.2 (by simp [hopen, hkept])
    rfl
  · obtain rfl : homeOpen = false := Bool.eq_false_iff.2 fun hb => (hopen.1 hb).2 hclosed
    rfl

/-- A LEVEL conceals the run exactly where none of the four conditions fails (R85). -/
theorem conceals_iff_refusal {l p : Nat} {overload : Bool} (h : ch.gap = some g)
    (hopen : homeOpen = true ↔ g.homeOpen = true ∧ ¬ClosesFirst x ch.interval) :
    Conceals x ch.gap ch.interval (.level l p overload) ↔
      ({ g with homeOpen := homeOpen } : GapRun).refusal x.settings.concealMax = none := by
  rw [GapRun.refusal_eq_none, hopen, h]
  constructor
  · rintro ⟨_, _, _, _, hg, -, hlength, hbefore, hhome, hstart⟩
    cases hg
    exact ⟨hlength, hbefore, hhome, hstart⟩
  · rintro ⟨hlength, hbefore, hhome, hstart⟩
    exact ⟨g, l, p, overload, rfl, rfl, hlength, hbefore, hhome, hstart⟩

end

/-! ### What an account does to the run (R82, R83, R85 to R89) -/

section
variable {x : SliceContext} {c : Channel} {ch : ChannelState} {run : GapRun}

theorem account_gap (x : SliceContext) (c : Channel) (ch : ChannelState) (r : SliceResult) :
    (account x c ch r).ch.gap = (accountGap x c ch r).gap := by
  rw [account_eq]

theorem account_gapRecord (x : SliceContext) (c : Channel) (ch : ChannelState) (r : SliceResult) :
    (account x c ch r).gapRecord = (accountGap x c ch r).offer := by
  rw [account_eq]

theorem addedInterval_openTime (x : SliceContext) (ch : ChannelState) (r : SliceResult) :
    (addedInterval x ch r).openTime = (intervalFor x ch.interval).openTime :=
  (Interval.takesIn_add _ x r _).openTime

theorem addedInterval_elapsed (x : SliceContext) (ch : ChannelState) (r : SliceResult) :
    (addedInterval x ch r).elapsed = (intervalFor x ch.interval).elapsed + 1 :=
  (Interval.takesIn_add _ x r _).elapsed

theorem energyBefore_eq_some_iff {prev : Option PrevResult} {e : Nat} :
    energyBefore prev = some e ↔ prev = some (.level e) :=
  ⟨energyBefore_eq_some, fun h => congrArg energyBefore h⟩

/-- MISSING starts a run on a channel that has none (R82). -/
theorem account_starts (h : ch.gap = none) :
    (account x c ch .missing).ch.gap =
      some ⟨x.tag.time, x.tag.time, 1, energyBefore ch.prev, (intervalFor x ch.interval).openTime, true,
        decide ((intervalFor x ch.interval).elapsed + 1 = 1)⟩ := by
  rw [account_gap, accountGap, closeStep_gap_of_none h, gapStep, startRun, addedInterval_openTime,
    addedInterval_elapsed]

/-- MISSING extends the run of a channel that has one (R83). -/
theorem account_extends (hrun : (closeStep x c ch).1.gap = some run) :
    (account x c ch .missing).ch.gap =
      some { run with last := x.tag.time, length := min 4294967295 (run.length + 1) } := by
  rw [account_gap, accountGap, hrun, gapStep, GapRun.extend, satAdd32_eq]

/-- Any other result leaves no run (R85, R89). -/
theorem account_ends {r : SliceResult} (hr : r ≠ .missing) : (account x c ch r).ch.gap = none := by
  rw [account_gap, accountGap, gapStep_gap, if_neg hr]

/-- Where no run ends there is no GAP record. -/
theorem account_gapRecord_unended {r : SliceResult} (h : ch.gap = none ∨ r = .missing) :
    (account x c ch r).gapRecord = none := by
  rw [account_gapRecord, accountGap]
  rcases h with h | rfl
  · rw [closeStep_gap_of_none h]
    cases r <;> rfl
  · cases (closeStep x c ch).1.gap <;> rfl

/-- CAL ends a run unconcealed (R89). -/
theorem account_gapRecord_cal (hrun : (closeStep x c ch).1.gap = some run) :
    (account x c ch .cal).gapRecord = gapOffer c run .cal none := by
  rw [account_gapRecord, accountGap, hrun, gapStep]

variable {l p : Nat} {overload : Bool}

/-- A LEVEL ends a run unconcealed where one of the four conditions fails (R85, R88). -/
theorem account_gapRecord_refused (hrun : (closeStep x c ch).1.gap = some run) {why : ConcealRefusal}
    (hrefusal : run.refusal x.settings.concealMax = some why) :
    (account x c ch (.level l p overload)).gapRecord = gapOffer c run .level (some why) := by
  rw [account_gapRecord, accountGap, hrun, gapStep, endRunByLevel, hrefusal]

/-- A concealed run has no GAP record (R88). -/
theorem account_gapRecord_concealed (hrun : (closeStep x c ch).1.gap = some run)
    (hrefusal : run.refusal x.settings.concealMax = none) :
    (account x c ch (.level l p overload)).gapRecord = none := by
  rw [account_gapRecord, accountGap, hrun, gapStep, endRunByLevel, hrefusal]

end

/-! ### The fill of a concealed run (R86, R87, R133, R134) -/

/-- A fill with its recompute, after a first recompute: exhausted-at names the present slice where either recompute is
the first to give EXHAUSTED (R134). -/
theorem Interval.conceal_exhaustedAt (iv : Interval) (n ec : Nat) (bg : Option Nat) (warnFraction : Nat) :
    (((iv.recompute warnFraction).conceal n ec bg).recompute warnFraction).exhaustedAt =
      if iv.exhaustedAt = none ∧
          ((((iv.recompute warnFraction).conceal n ec bg).recompute warnFraction).allowance = .exhausted ∨
            (iv.recompute warnFraction).allowance = .exhausted) then some iv.elapsed
      else iv.exhaustedAt := by
  have hfill : ((iv.recompute warnFraction).conceal n ec bg).exhaustedAt =
      (iv.recompute warnFraction).exhaustedAt := rfl
  have helapsed : ((iv.recompute warnFraction).conceal n ec bg).elapsed = iv.elapsed := rfl
  rw [Interval.recompute_exhaustedAt, hfill, helapsed, Interval.recompute_exhaustedAt]
  by_cases hadd : iv.exhaustedAt = none ∧ (iv.recompute warnFraction).allowance = .exhausted
  · rw [if_pos hadd, if_neg (by simp), if_pos ⟨hadd.1, .inr hadd.2⟩]
  · rw [if_neg hadd]
    refine if_congr (and_congr_right fun hnone => ?_) rfl rfl
    rw [or_iff_left fun hex => hadd ⟨hnone, hex⟩]

section
variable {x : SliceContext} {c : Channel} {ch : ChannelState} {run : GapRun} {l p : Nat} {overload : Bool}
  {iv iv' : Interval}

/-- The interval of a concealing account: the run that reached the gap-run step is filled into it. -/
theorem account_interval_filled (hiv : intervalFor x ch.interval = iv)
    (h : (account x c ch (.level l p overload)).ch.interval = some iv')
    (hrun : (closeStep x c ch).1.gap = some run) (hrefusal : run.refusal x.settings.concealMax = none) :
    ∃ n, iv' =
      { (((iv.add x (.level l p overload) (ch.background.valid x.settings.bgMin)).recompute
            x.settings.warnFraction).conceal run.length ((run.before.getD 0 + energy l) / 2)
          (ch.background.valid x.settings.bgMin)).recompute x.settings.warnFraction with eventCount := n } := by
  subst hiv
  rw [account_eq] at h
  obtain ⟨n, hn⟩ := eventStep_interval x c (accountGap x c ch (.level l p overload)).interval ch.event
    (.level l p overload)
  obtain rfl := (Option.some.inj h).symm.trans hn
  refine ⟨n, ?_⟩
  rw [accountGap, hrun, gapStep, endRunByLevel, hrefusal]
  rfl

/-- What a concealing account leaves of the counts and the sums: the slice added, and each slice of the run turned from
missing to concealed with the concealment energy and the background (R60, R86, R87). -/
theorem account_filled (hiv : intervalFor x ch.interval = iv)
    (h : (account x c ch (.level l p overload)).ch.interval = some iv')
    (hrun : (closeStep x c ch).1.gap = some run) (hrefusal : run.refusal x.settings.concealMax = none) :
    iv'.missing = iv.missing - run.length ∧ iv'.concealed = iv.concealed + run.length ∧
      iv'.sumTot = iv.sumTot + energy l + run.length * ((run.before.getD 0 + energy l) / 2) ∧
      iv'.sumBg = iv.sumBg + (ch.background.valid x.settings.bgMin).getD 0 +
        run.length * (ch.background.valid x.settings.bgMin).getD 0 ∧
      iv'.nbg = iv.nbg + (if ch.background.valid x.settings.bgMin = none then 0 else 1 + run.length) := by
  obtain ⟨n, rfl⟩ := account_interval_filled hiv h hrun hrefusal
  refine ⟨rfl, rfl, rfl, rfl, ?_⟩
  cases hbg : ch.background.valid x.settings.bgMin with
  | none => rfl
  | some b => exact Nat.add_assoc _ _ _

/-- A concealing account recomputes the allowance after the add and again after the fill (R132 to R134). -/
theorem account_filled_exhaustedAt (hiv : intervalFor x ch.interval = iv)
    (h : (account x c ch (.level l p overload)).ch.interval = some iv')
    (hrun : (closeStep x c ch).1.gap = some run) (hrefusal : run.refusal x.settings.concealMax = none) :
    iv'.exhaustedAt =
      if iv.exhaustedAt = none ∧ (iv'.allowance = .exhausted ∨
          allowanceState iv.planned iv.limit (iv.sumTot + energy l)
            (iv.sumBg + (ch.background.valid x.settings.bgMin).getD 0) x.settings.warnFraction = .exhausted)
      then some (iv.elapsed + 1) else iv.exhaustedAt := by
  obtain ⟨n, rfl⟩ := account_interval_filled hiv h hrun hrefusal
  exact Interval.conceal_exhaustedAt (iv.add x (.level l p overload) (ch.background.valid x.settings.bgMin))
    run.length _ _ _

end

/-- Settles O46: the run that each account finds, the record of its end, and the interval that a fill leaves. -/
theorem gapRunsFollowTheMissingSlices : Obligations.GapRunsFollowTheMissingSlices := by
  intro s heard c ended r iv hclock hnone hlast hr hiv
  obtain ⟨ch, hd, hinterval, hgap, hprev, -, hbackground⟩ := deadline_accounts hlast hr
  obtain ⟨iv', hiv'⟩ := Option.isSome_iff_exists.1 (account_interval_isSome (s.sliceContext ended.tag) c ch r)
  have hchannel := boundary_channel heard c hnone
  have hbatch := boundaryWork_batch heard s
  rw [hnone] at hbatch
  have hrecord := congrArg ChannelWork.gapRecord hd
  rw [hd] at hchannel
  rw [← hinterval] at hiv
  rw [← hinterval, ← hgap, ← hprev, ← hbackground]
  refine ⟨_, iv', _, exec_boundary heard hclock, by rw [hchannel, hiv'], hbatch, batch_ordered heard s none _, ?_⟩
  rw [hchannel]
  refine ⟨fun _ hnot => account_ends hnot, fun hunended => ?_, ?_, fun g hg => ?_⟩
  · exact batch_no_gap (hrecord.trans (account_gapRecord_unended hunended))
  · rintro hg rfl
    exact ⟨energyBefore ch.prev, hiv ▸ account_starts hg, fun _ => energyBefore_eq_some_iff⟩
  intro run record refusal
  have hopen : run.homeOpen = true ↔ g.homeOpen = true ∧ ¬ClosesFirst (s.sliceContext ended.tag) ch.interval :=
    decide_eq_true_iff
  have hrun : (closeStep (s.sliceContext ended.tag) c ch).1.gap = some run := closeStep_gap_of_some hg hopen
  refine ⟨?_, ?_, ?_⟩
  · rintro rfl
    exact account_extends hrun
  · rintro rfl
    obtain ⟨-, hmissing, -⟩ := account_not_level hiv hiv' nofun
    obtain ⟨hconcealed, -⟩ := account_unfilled hiv hiv' (not_conceals_of_not_level nofun)
    exact ⟨account_ends nofun, hmissing, hconcealed,
      batch_gapOffer (g := run) (hrecord.trans (account_gapRecord_cal hrun))⟩
  · rintro l p overload rfl
    refine ⟨account_ends nofun, fun why hwhy => ?_, fun hmeets => ?_⟩
    · have hnot : ¬Conceals (s.sliceContext ended.tag) ch.gap ch.interval (.level l p overload) := by
        rw [conceals_iff_refusal hg hopen]
        exact fun hmeets => Option.some_ne_none why (hwhy.symm.trans hmeets)
      obtain ⟨hmissing, hsum, -⟩ := account_level_sums hiv hiv' hnot
      exact ⟨hmissing, (account_unfilled hiv hiv' hnot).1, hsum,
        batch_gapOffer (g := run) (hrecord.trans (account_gapRecord_refused hrun hwhy))⟩
    · obtain ⟨hmissing, hconcealed, hsumTot, hsumBg, hnbg⟩ := account_filled hiv hiv' hrun hmeets
      have htakes := account_takesIn hiv hiv'
      exact ⟨hmissing, hconcealed, htakes.elapsed, hsumTot, hsumBg, hnbg, htakes.rs, htakes.allowance,
        account_filled_exhaustedAt hiv hiv' hrun hmeets,
        batch_no_gap (hrecord.trans (account_gapRecord_concealed hrun hmeets))⟩

end Sys2Proof.Machine
end

section
/-! PROOFS. The settings of the detectors, the commands of the activity monitor, and the edges of its lines. -/

namespace Sys2Proof.Machine

/-! ### SET_ACTIVITY_LINES, SET_BACKGROUND, SET_EVENT (R96, R109, R129) -/

theorem setActivityLinesRule_eq (s : State) (p : Port) (mask : Byte) :
    setActivityLinesRule p [mask] s =
      .complete
        (State.offerConfig { s with activity := { s.activity with enable := mask } } p
          (.activityLines mask s.activity.enable))
        .ok [mask] := rfl

/-- The rule of SET_BACKGROUND on the bytes of its frame. -/
theorem setBackgroundRule_eq (s : State) (p : Port) (shift : Byte) (bgMin hold : BitVec 16) :
    setBackgroundRule p ([shift] ++ put2 bgMin.toNat ++ put2 hold.toNat) s =
      let storedShift := max 4 (min 12 shift.toNat)
      let storedMin := max 8 bgMin.toNat
      .complete
        (State.offerConfig
          { s with settings :=
            { s.settings with bgShift := storedShift, bgMin := storedMin, quietHold := hold.toNat } }
          p (.background storedShift storedMin hold.toNat))
        .ok (put1 storedShift ++ put2 storedMin ++ put2 hold.toNat) := by
  have hmin : arg2 ([shift] ++ put2 bgMin.toNat ++ put2 hold.toNat) 1 = bgMin.toNat :=
    arg2_append_put2 (put2 hold.toNat) _ bgMin.isLt
  have hhold : arg2 ([shift] ++ put2 bgMin.toNat ++ put2 hold.toNat) 3 = hold.toNat := arg2_append_put2 [] _ hold.isLt
  have hshift : arg1 ([shift] ++ put2 bgMin.toNat ++ put2 hold.toNat) 0 = shift.toNat := arg1_zero _ _
  have hceiling : min 65535 bgMin.toNat = bgMin.toNat := Nat.min_eq_right (Nat.le_of_lt_succ bgMin.isLt)
  simp only [setBackgroundRule, hshift, hmin, hhold, clamp_eq (show 4 ≤ 12 by decide),
    clamp_eq (show 8 ≤ 65535 by decide), hceiling]

/-- The rule of SET_EVENT on the bytes of its frame. -/
theorem setEventRule_eq (s : State) (p : Port) (hold cap : BitVec 16) :
    setEventRule p (put2 hold.toNat ++ put2 cap.toNat) s =
      let storedHold := max 1 (min 255 hold.toNat)
      let storedCap := max 1 (min 255 cap.toNat)
      .complete
        (State.offerConfig { s with settings := { s.settings with eventHold := storedHold, eventCap := storedCap } } p
          (.eventSettings storedHold storedCap))
        .ok (put1 storedHold ++ put1 storedCap) := by
  have hhold := arg2_append_put2 (put2 cap.toNat) _ hold.isLt
  have hcap : arg2 (put2 hold.toNat ++ put2 cap.toNat) 2 = cap.toNat := arg2_append_put2 [] _ cap.isLt
  simp only [setEventRule, hhold, hcap, clamp_eq (show 1 ≤ 255 by decide)]

/-- Settles O19: each rule stores its clamped arguments on the state that it finds. -/
theorem detectionSettingsAreStoredClamped : Obligations.DetectionSettingsAreStoredClamped := by
  intro s h
  refine ⟨fun mask => ?_, fun shift bgMin hold => ?_, fun hold cap => ?_⟩
  · exact authorityCommand_answered h rfl (by decide) (setActivityLinesRule_eq _ _ mask) rfl
  · exact authorityCommand_answered h rfl (by decide) (setBackgroundRule_eq _ _ shift bgMin hold) rfl
  · exact authorityCommand_answered h rfl (by decide) (setEventRule_eq _ _ hold cap) rfl

/-! ### ACTIVITY_PULSE and the edge commands (R97, R99, R101, R102) -/

section
variable {n : Nat} {p : Port} {args data : List Byte} {rule : List Byte → State → Answer} {s t t' : State}
  {status : Status}

/-- A command of the site port of the right length is answered by its own rule. -/
theorem siteCommand_framed (h : s.takes .site = true) (hlen : args.length = n) (hn : n ≤ 250) :
    portCommand (siteCommand n) .site (framed args) rule s =
      .next ((s.opened .site).takeAnswer .site (rule args (s.opened .site))) :=
  portCommand_framed h (hlen ▸ hn) rfl (by simp [siteCommand, ArgLength.fits, hlen])

/-- A command of the site that its rule refuses changes nothing but its port (R178). -/
theorem siteCommand_refused (h : s.takes .site = true) (hlen : args.length = n) (hn : n ≤ 250)
    (hr : rule args (s.opened .site) = refuse (s.opened .site) status) :
    portCommand (siteCommand n) .site (framed args) rule s = .next (s.refusedWith .site status) := by
  rw [siteCommand_framed h hlen hn, hr, opened_takeAnswer_refuse]

/-- A command of the site that its rule completes on the state `t`, the ports apart, is answered on it (R174). -/
theorem siteCommand_answered (h : s.takes .site = true) (hlen : args.length = n) (hn : n ≤ 250)
    (hr : rule args (s.opened .site) = .complete t' status data)
    (ht : t' = t.mapPort .site fun q =>
      { q with transaction := none, clockedOut := [s.firstByte .site], command := .idle }) :
    portCommand (siteCommand n) .site (framed args) rule s = .next (s.answered .site t status data) := by
  rw [siteCommand_framed h hlen hn, hr, opened_takeAnswer_complete ht rfl]

/-- A command of both ports that its rule completes on the state `t`, the issuing port's own controller apart, is
answered on it (R174). -/
theorem bothCommand_answered (h : s.takes p = true) (hlen : args.length = n) (hn : n ≤ 250)
    (hr : rule args (s.opened p) = .complete t' status data)
    (ht : t' = t.mapPort p fun q =>
      { q with transaction := none, clockedOut := [s.firstByte p], command := .idle }) :
    portCommand (bothCommand n) p (framed args) rule s = .next (s.answered p t status data) := by
  rw [portCommand_framed h (hlen ▸ hn) (by cases p <;> rfl) (by simp [bothCommand, ArgLength.fits, hlen]), hr,
    opened_takeAnswer_complete ht rfl]

end

theorem activityPulseRule_none {s : State} (h : s.timebase.slice = none) (args : List Byte) :
    activityPulseRule args s = refuse s .empty := by
  rw [activityPulseRule, h]

theorem activityPulseRule_some {s : State} {tag : Tag} (h : s.timebase.slice = some tag) (args : List Byte) :
    activityPulseRule args s =
      .complete { s with activity := { s.activity with pulse := true } } .ok
        (put2 tag.time.day.toNat ++ put3 tag.time.sod.val) := by
  rw [activityPulseRule, h]
  rfl

/-- CLEAR_EDGES answers with the flags that it leaves (R101). -/
theorem clearEdgesRule_opened (s : State) (p : Port) (mask : Byte) :
    clearEdgesRule p [mask] (s.opened p) =
      .complete ((s.opened p).mapPort p fun q => { q with edges := q.edges &&& ~~~mask }) .ok
        [(s.port p).edges &&& ~~~mask] := by
  rw [clearEdgesRule, State.opened_port]
  rfl

theorem readEdgesRule_opened (s : State) (p : Port) :
    readEdgesRule p [] (s.opened p) =
      .complete (s.opened p) .ok [(s.port p).edges, (s.port p).rise, (s.port p).fall, s.activity.level] := by
  rw [readEdgesRule, State.opened_port, State.opened_activity]

/-- Settles O20: ACTIVITY_PULSE by whether a slice is in progress, and each edge command by its rule on the issuing
port. -/
theorem activityAndEdgeCommandsDoOnlyTheirPart : Obligations.ActivityAndEdgeCommandsDoOnlyTheirPart := by
  refine ⟨fun s h => ⟨fun hnone => ?_, fun tag hsome => ?_⟩,
    fun p s h => ⟨fun rise fall => ?_, fun mask => ?_, ?_⟩⟩
  · exact siteCommand_refused h rfl (by decide) (activityPulseRule_none (by simpa using hnone) _)
  · exact siteCommand_answered h rfl (by decide) (activityPulseRule_some (by simpa using hsome) _) rfl
  · exact bothCommand_answered h rfl (by decide) rfl (by cases p <;> rfl)
  · exact bothCommand_answered h rfl (by decide) (clearEdgesRule_opened s p mask) (by cases p <;> rfl)
  · exact bothCommand_answered h rfl (by decide) (readEdgesRule_opened s p) rfl

/-! ### Edges of a line (R95, R100) -/

/-- The edge flags after an edge of the line `l` that is taken under the enables of its direction (R100). -/
def flagsWithEdge (edges enables : Byte) (l : Line) : Byte :=
  if member enables l then withMember edges l true else edges

/-- The high-seen marks after a rise of the line `l` that is seen, in a slice or before the first (R95). -/
def marksWithHigh (marks : Byte) (l : Line) (inSlice : Bool) : Byte :=
  if inSlice then withMember marks l true else marks

theorem member_withMember_true (set : Byte) (l j : Line) :
    member (withMember set l true) j = (decide (j = l) || member set j) := by
  rw [member_withMember]
  by_cases h : j = l <;> simp [h]

theorem member_withMember_false (set : Byte) (l j : Line) :
    member (withMember set l false) j = (decide (j ≠ l) && member set j) := by
  rw [member_withMember]
  by_cases h : j = l <;> simp [h]

theorem member_flagsWithEdge (edges enables : Byte) (l j : Line) :
    member (flagsWithEdge edges enables l) j = (decide (j = l ∧ member enables l = true) || member edges j) := by
  unfold flagsWithEdge
  by_cases h : member enables l = true
  · rw [if_pos h, member_withMember_true, decide_eq_decide.2 (and_iff_left h).symm]
  · rw [if_neg h, decide_eq_false fun hl => h hl.2, Bool.false_or]

theorem member_marksWithHigh (marks : Byte) (l : Line) (slice : Option Tag) (j : Line) :
    member (marksWithHigh marks l slice.isSome) j = (decide (j = l ∧ slice ≠ none) || member marks j) := by
  cases slice with
  | none => simp [marksWithHigh]
  | some tag => simp [marksWithHigh]

theorem PortState.takeEdge_flags (q : PortState) (enables : Byte) (l : Line) :
    q.takeEdge enables l = { q with edges := flagsWithEdge q.edges enables l } := q.takeEdge_eq enables l

theorem State.takeRise_eq (s : State) (l : Line) :
    s.takeRise l =
      { s with
        site := { s.site with edges := flagsWithEdge s.site.edges s.site.rise l }
        authority := { s.authority with edges := flagsWithEdge s.authority.edges s.authority.rise l } } := by
  rw [State.takeRise, PortState.takeEdge_flags, PortState.takeEdge_flags]

theorem State.takeFall_eq (s : State) (l : Line) :
    s.takeFall l =
      { s with
        site := { s.site with edges := flagsWithEdge s.site.edges s.site.fall l }
        authority := { s.authority with edges := flagsWithEdge s.authority.edges s.authority.fall l } } := by
  rw [State.takeFall, PortState.takeEdge_flags, PortState.takeEdge_flags]

theorem Activity.mark_eq (a : Activity) (l : Line) (inSlice : Bool) :
    a.mark l inSlice = { a with highSeen := marksWithHigh a.highSeen l inSlice } := by
  cases inSlice <;> rfl

/-- A rise that is seen: the line is high and not unseen, its mark is set in a slice, and the edge reaches both
ports. -/
theorem seenRise_eq (l : Line) (s : State) :
    seenRise l s =
      { s with
        activity :=
          { s.activity with
            level := withMember s.activity.level l true
            highSeen := marksWithHigh s.activity.highSeen l s.timebase.slice.isSome
            unseen := withMember s.activity.unseen l false }
        site := { s.site with edges := flagsWithEdge s.site.edges s.site.rise l }
        authority := { s.authority with edges := flagsWithEdge s.authority.edges s.authority.rise l } } := by
  rw [seenRise, State.takeRise_eq, Activity.mark_eq]
  rfl

/-- A short high is counted, and seen or not as the device chooses (R95; log entry 1). -/
theorem rise_short (l : Line) (s : State) :
    rise l true s = seenRise l { s with shortHighs := s.shortHighs + 1 } ∨
      rise l true s =
        { s with shortHighs := s.shortHighs + 1, activity := s.activity.lineUp l true } := by
  by_cases h : Config.shortHighSeen s.shortHighs = true
  · exact .inl (by simp [rise, h])
  · exact .inr (by simp [rise, h])

section
variable {s : State} {l : Line}

theorem exec_actRise_high (h : member s.activity.level l = true) (short : Bool) :
    exec (.actRise l short) s = .next s := by
  rw [exec, execActRise, if_pos h]

theorem exec_actRise_reset (h : member s.activity.level l = false) (hn : s.nrstLow = true) (short : Bool) :
    exec (.actRise l short) s = .next { s with activity := s.activity.lineUp l false } := by
  rw [exec, execActRise, if_neg (by simp [h]), if_pos hn]

theorem exec_actRise_low (h : member s.activity.level l = false) (hn : s.nrstLow = false) (short : Bool) :
    exec (.actRise l short) s = .next (rise l short s) := by
  rw [exec, execActRise, if_neg (by simp [h]), if_neg (by simp [hn])]

theorem exec_actFall_low (h : member s.activity.level l = false) : exec (.actFall l) s = .next s := by
  rw [exec, execActFall, if_pos h]

theorem exec_actFall_untaken (h : member s.activity.level l = true)
    (hu : s.nrstLow = true ∨ member s.activity.unseen l = true) :
    exec (.actFall l) s = .next { s with activity := s.activity.lineDown l } := by
  rw [exec, execActFall, if_neg (by simp [h]), if_pos (by simpa using hu)]

theorem exec_actFall_taken (h : member s.activity.level l = true) (hn : s.nrstLow = false)
    (hu : member s.activity.unseen l = false) :
    exec (.actFall l) s = .next (State.takeFall { s with activity := s.activity.lineDown l } l) := by
  rw [exec, execActFall, if_neg (by simp [h]), if_neg (by simp [hn, hu])]

end

/-- Settles O21: a rise and a fall by the line's level, NRST, and whether the high is seen. -/
theorem edgesReachBothPorts : Obligations.EdgesReachBothPorts := by
  intro s l
  refine ⟨withMember s.activity.level l true, withMember s.activity.level l false,
    withMember s.activity.unseen l false, withMember s.activity.unseen l true,
    marksWithHigh s.activity.highSeen l s.timebase.slice.isSome,
    fun p => flagsWithEdge (s.port p).edges (s.port p).rise l,
    fun p => flagsWithEdge (s.port p).edges (s.port p).fall l,
    member_withMember_true _ l, member_withMember_false _ l, member_withMember_false _ l, member_withMember_true _ l,
    member_marksWithHigh _ l _, fun _ => member_flagsWithEdge _ _ l, fun _ => member_flagsWithEdge _ _ l,
    exec_actRise_high, exec_actRise_reset, fun hlow hn => ⟨?_, _, exec_actRise_low hlow hn true, ?_⟩,
    exec_actFall_low, exec_actFall_untaken, fun hhigh hn hu => ?_⟩
  · rw [exec_actRise_low hlow hn, rise, if_neg Bool.false_ne_true, seenRise_eq]
    rfl
  · exact (rise_short l s).imp (fun h => h.trans (seenRise_eq l _)) id
  · rw [exec_actFall_taken hhigh hn hu, State.takeFall_eq]
    rfl

end Sys2Proof.Machine
end

section
/-! PROOFS. The slice end: the activity verdict, the quiet timer, and the prohibited episode. -/

namespace Sys2Proof.Machine

/-! ### The verdict and the quiet timer (R98, R103 to R105, R111) -/

theorem ne_zero_iff_exists_member {a : BitVec 8} : a ≠ 0 ↔ ∃ i, member a i = true := by
  rw [Ne, eq_zero_iff_no_member, not_forall]
  simp only [Bool.not_eq_false]

section
variable (a : Activity) (t : Tag) (voided : Bool)

theorem sliceVerdict_active :
    (sliceVerdict a t voided).active = true ↔
      (∃ l, member (sliceVerdict a t voided).lines l = true) ∨ a.pulse = true := by
  rw [← ne_zero_iff_exists_member]
  simp [sliceVerdict]

theorem sliceVerdict_quiet :
    (sliceVerdict a t voided).quiet = true ↔ a.quiet = 0 ∧ (sliceVerdict a t voided).active = false := by
  simp only [sliceVerdict, Bool.and_eq_true, decide_eq_true_eq, Bool.not_eq_true']

theorem sliceVerdict_prohibited :
    (sliceVerdict a t voided).prohibited = true ↔
      voided = false ∧ t.plant = false ∧ a.highSeen &&& a.enable ≠ 0 := by
  simp only [sliceVerdict, Bool.and_eq_true, Bool.not_eq_true', decide_eq_true_eq, and_assoc]

end

/-- Settles O48: the verdict field by field, and the activity monitor as its slice end leaves it. -/
theorem sliceEndsAreJudged : Obligations.SliceEndsAreJudged := by
  intro s heard ended hclock hslice
  have hactivity := boundary_activity (heard := heard) (s := s) rfl
  rw [hslice, Activity.atBoundary_some] at hactivity
  refine ⟨_, sliceVerdict s.activity ended (isTimeStep s.pendingTimed), exec_boundary heard hclock, ?_⟩
  rw [hactivity]
  refine ⟨rfl, rfl, rfl, member_and _ _, rfl, sliceVerdict_active _ _ _, sliceVerdict_quiet _ _ _, isTimeStep_eq_true,
    ?_, fun hrestart => if_pos hrestart, fun hother => if_neg hother, rfl, fun l => ?_⟩
  · rw [sliceVerdict_prohibited, ne_zero_iff_exists_member]
    rfl
  · rw [member_and, member_not]

/-! ### The prohibited episode (R112, R113, R115) -/

section
variable {v : ActivityVerdict} {cls : ClassNo} {e : Episode}

theorem episodeStep_none (hv : v.voided = false) :
    episodeStep none v cls = ⟨if v.prohibited then some (openEpisode v cls) else none, none⟩ := by
  simp [episodeStep, hv]

theorem episodeStep_extends (hv : v.voided = false) (hp : v.prohibited = true) :
    episodeStep (some e) v cls = ⟨some (e.takeProhibited v), none⟩ := by
  simp [episodeStep, hv, hp]

theorem episodeStep_pauses (hv : v.voided = false) (hp : v.prohibited = false) (h : e.pause < 7) :
    episodeStep (some e) v cls = ⟨some { e with pause := e.pause + 1 }, none⟩ := by
  have hfew : ¬Config.episodePause ≤ e.pause + 1 := by rw [Config.episodePause]; omega
  simp [episodeStep, hv, hp, hfew]

theorem episodeStep_ends (hv : v.voided = false) (hp : v.prohibited = false) (h : 7 ≤ e.pause) :
    episodeStep (some e) v cls = ⟨none, some (episodeOffer e .pause)⟩ := by
  have hfull : Config.episodePause ≤ e.pause + 1 := by rw [Config.episodePause]; omega
  simp [episodeStep, hv, hp, hfull, episodeOffer]

end

section
variable {heard : List Byte} {s : State} {ended : Tag} {st : EpisodeStep}

/-- With nothing pending a boundary leaves the episode as its slice end does, and the slice end's record is the one
PROHIBITED record that it offers. -/
theorem boundary_episode (hslice : s.timebase.slice = some ended) (hnone : s.pendingTimed = none)
    (hst : episodeStep s.activity.episode (sliceVerdict s.activity ended false) ended.cls = st) :
    (boundaryWork (frameAtBoundary heard s)).activity.episode = st.episode ∧
      ∀ o : Offer, o.body.kind = 4 →
        (o ∈ batch (frameAtBoundary heard s) none (boundaryWork (frameAtBoundary heard s)).timebase.time ↔
          st.offer = some o) := by
  obtain ⟨hepisode, hoffer⟩ := s.activity.atBoundary_episode ended none s.settings.quietHold rfl
  refine ⟨?_, fun o ho => ?_⟩
  · rw [boundary_activity hnone, hslice, hepisode, ← hst]
    rfl
  · rw [mem_batch_prohibited ho, hslice, hoffer, ← hst]
    rfl

/-- A slice end that closes no episode offers no PROHIBITED record. -/
theorem boundary_episode_stays {episode : Option Episode} (hslice : s.timebase.slice = some ended)
    (hnone : s.pendingTimed = none)
    (hst : episodeStep s.activity.episode (sliceVerdict s.activity ended false) ended.cls = ⟨episode, none⟩) :
    (boundaryWork (frameAtBoundary heard s)).activity.episode = episode ∧
      ∀ o ∈ batch (frameAtBoundary heard s) none (boundaryWork (frameAtBoundary heard s)).timebase.time,
        o.body.kind ≠ 4 := by
  obtain ⟨hepisode, hoffers⟩ := boundary_episode hslice hnone hst
  exact ⟨hepisode, fun o ho hkind => nomatch (hoffers o hkind).1 ho⟩

end

/-- Settles O49: by whether an episode is open, whether the slice is prohibited, and how long the pause is. -/
theorem episodesRunAcrossShortPauses : Obligations.EpisodesRunAcrossShortPauses := by
  intro s heard ended hclock hslice hnone lines
  have hbatch := boundaryWork_batch heard s
  rw [hnone] at hbatch
  have hprohibited : ended.plant = false → lines ≠ 0 → (sliceVerdict s.activity ended false).prohibited = true :=
    fun hplant hlines => (sliceVerdict_prohibited _ _ _).2 ⟨rfl, hplant, hlines⟩
  have hpause : ended.plant = true ∨ lines = 0 → (sliceVerdict s.activity ended false).prohibited = false := by
    rw [← Bool.not_eq_true, sliceVerdict_prohibited]
    rintro (hplant | hlines) ⟨-, hforbids, hline⟩
    · exact Bool.noConfusion (hplant.symm.trans hforbids)
    · exact hline hlines
  have hopens := fun hnew : s.activity.episode = none =>
    boundary_episode_stays (heard := heard) hslice hnone (by rw [hnew, episodeStep_none rfl])
  refine ⟨_, _, exec_boundary heard hclock, hbatch, batch_ordered heard s none _, fun hnew => ?_,
    fun hnew hplant hlines => ?_, fun hnew hquiet => ?_, fun e he => ⟨fun hplant hlines => ?_, fun hquiet => ?_⟩⟩
  · exact (hopens hnew).2
  · rw [(hopens hnew).1, if_pos (hprohibited hplant hlines)]
    rfl
  · rw [(hopens hnew).1, hpause hquiet]
    rfl
  · have hstep := episodeStep_extends (e := e) (cls := ended.cls) rfl (hprohibited hplant hlines)
    rw [Episode.takeProhibited, satAdd32_eq, satAdd32_eq, ← he] at hstep
    exact boundary_episode_stays hslice hnone hstep
  · refine ⟨fun hshort => ?_, fun hlong => ?_⟩
    · exact boundary_episode_stays hslice hnone (by rw [he, episodeStep_pauses rfl (hpause hquiet) hshort])
    · obtain ⟨hepisode, hoffers⟩ :=
        boundary_episode hslice hnone (by rw [he, episodeStep_ends rfl (hpause hquiet) hlong])
      exact ⟨hepisode, (hoffers _ rfl).2 rfl⟩

end Sys2Proof.Machine
end

section
/-! PROOFS. Impulsive events: which slices trigger, how an event opens, is retriggered, counts its hold down and closes,
and its EVENT record. -/

namespace Sys2Proof.Machine

/-! ### Triggers (R118) -/

theorem triggers_eq_true {lmax peak : Nat} {r : SliceResult} :
    triggers lmax peak r = true ↔ ∃ l p overload, r = .level l p overload ∧ (lmax ≤ l ∨ peak ≤ p) := by
  cases r <;> simp [triggers]

theorem triggers_eq_false {lmax peak : Nat} {r : SliceResult} :
    triggers lmax peak r = false ↔ ¬∃ l p overload, r = .level l p overload ∧ (lmax ≤ l ∨ peak ≤ p) := by
  rw [← triggers_eq_true, Bool.not_eq_true]

/-! ### The step of an open event (R121 to R123) -/

/-- An event stays open where a trigger or the hold carries it on and its age is not reached. -/
theorem Event.closeCause_eq_none {e : Event} {r : SliceResult} :
    e.closeCause r = none ↔ (triggers e.lmaxThreshold e.peakThreshold r = true ∨ 2 ≤ e.hold) ∧ e.age + 1 < 65535 := by
  unfold Event.closeCause
  cases triggers e.lmaxThreshold e.peakThreshold r with
  | true =>
    simp
    omega
  | false =>
    by_cases hhold : e.hold ≤ 1
    · simp [hhold]
    · simp [hhold]
      omega

theorem settleEvent_closed (c : Channel) (iv : Interval) (e : Event) (cause : Option Cause) :
    (settleEvent c iv e cause).closed = cause := by
  cases cause <;> rfl

section
variable {x : SliceContext} {c : Channel} {iv : Interval} {e : Event} {r : SliceResult} {l p : Nat} {overload : Bool}

/-- The cause with which an event is settled is the one that its thresholds, hold and age give. -/
theorem eventStep_settles {e' : Event} {cause : Option Cause}
    (h : eventStep x c iv (some e) r = settleEvent c iv e' cause) :
    eventStep x c iv (some e) r = settleEvent c iv e' (e.closeCause r) := by
  have hcause := eventStep_closed x c iv (some e) r
  rw [h, settleEvent_closed] at hcause
  rw [h, hcause]
  rfl

/-- A trigger folds the slice into the event (R121). -/
theorem eventStep_retriggers (ht : e.lmaxThreshold ≤ l ∨ e.peakThreshold ≤ p) :
    eventStep x c iv (some e) (.level l p overload) =
      settleEvent c iv (e.retrigger x.tag.time x.settings.eventHold l p) (e.closeCause (.level l p overload)) := by
  rcases openContextStep_cases x c iv e (.level l p overload) with ⟨_, _, _, hr, -, h⟩ | ⟨hnot, -⟩
  · cases hr
    exact eventStep_settles h
  · exact absurd ⟨l, p, overload, rfl, ht⟩ (triggers_eq_false.1 hnot)

/-- Any other slice counts the hold down (R122). -/
theorem eventStep_countsDown (ht : triggers e.lmaxThreshold e.peakThreshold r = false) :
    eventStep x c iv (some e) r = settleEvent c iv (e.countDown r) (e.closeCause r) := by
  rcases openContextStep_cases x c iv e r with ⟨_, _, _, -, hhit, -⟩ | ⟨-, h⟩
  · exact Bool.noConfusion (ht.symm.trans hhit)
  · exact eventStep_settles h

/-- Without an event a slice that does not trigger changes nothing (R119). -/
theorem eventStep_idles (ht : triggers iv.lmax iv.peak r = false) :
    eventStep x c iv none r = ⟨iv, none, none, none⟩ := by
  rcases eventStep_idle_cases x c iv r with ⟨-, h⟩ | ⟨_, _, _, -, hhit, -⟩
  · exact h
  · exact Bool.noConfusion (ht.symm.trans hhit)

/-- Without an event a trigger is counted and opens one (R119, R120). -/
theorem eventStep_opens (ht : iv.lmax ≤ l ∨ iv.peak ≤ p) :
    eventStep x c iv none (.level l p overload) =
      ⟨{ iv with eventCount := satInc16 iv.eventCount },
        some (openEvent x.tag.time x.settings.eventHold { iv with eventCount := satInc16 iv.eventCount } l p),
        none, none⟩ := by
  rcases eventStep_idle_cases x c iv (.level l p overload) with ⟨hnot, -⟩ | ⟨_, _, _, hr, -, h⟩
  · exact absurd ⟨l, p, overload, rfl, ht⟩ (triggers_eq_false.1 hnot)
  · cases hr
    exact h

/-- What a slice that does not trigger leaves of the event: age, hold and, of a LEVEL, the pending values (R122). -/
theorem Event.countDown_eq (e : Event) (r : SliceResult) :
    ∃ pending, e.countDown r = { e with age := e.age + 1, hold := e.hold - 1, pending := pending } ∧
      ((∀ l p overload, r ≠ .level l p overload) → pending = e.pending) ∧
      ∀ l p overload, r = .level l p overload →
        pending = some ⟨(e.pending.map Pending.energy).getD 0 + energy l,
          max ((e.pending.map Pending.lmax).getD 0) l, max ((e.pending.map Pending.peak).getD 0) p⟩ := by
  cases r with
  | level l p overload =>
    refine ⟨_, rfl, fun hr => absurd rfl (hr l p overload), ?_⟩
    rintro _ _ _ ⟨⟩
    cases hq : e.pending <;> simp [takePending]
  | missing => exact ⟨_, rfl, fun _ => rfl, nofun⟩
  | cal => exact ⟨_, rfl, fun _ => rfl, nofun⟩

end

/-! ### The account's interval before the event step (R58) -/

section
variable {x : SliceContext} {c : Channel} {ch : ChannelState} {r : SliceResult} {iv : Interval}

/-- The interval whose thresholds the event step reads is the one that takes the slice in, filled or not, with its event
count as it was. -/
theorem accountGap_interval (hiv : intervalFor x ch.interval = iv) :
    iv.TakesIn x (accountGap x c ch r).interval ∧ (accountGap x c ch r).interval.eventCount = iv.eventCount := by
  subst hiv
  have hadd := Interval.takesIn_add (intervalFor x ch.interval) x r (ch.background.valid x.settings.bgMin)
  have hcount : (addedInterval x ch r).eventCount = (intervalFor x ch.interval).eventCount := by cases r <;> rfl
  rcases gapStep_interval x c (closeStep x c ch).1.gap ch.prev (addedInterval x ch r) r
    (ch.background.valid x.settings.bgMin) with h | ⟨_, _, _, _, -, -, -, h⟩ <;> rw [accountGap, h]
  · exact ⟨hadd, hcount⟩
  · exact ⟨hadd.conceal _ _ _, hcount⟩

theorem account_event (x : SliceContext) (c : Channel) (ch : ChannelState) (r : SliceResult) :
    (account x c ch r).ch.interval = some (accountEvent x c ch r).interval ∧
      (account x c ch r).ch.event = (accountEvent x c ch r).event ∧
      (account x c ch r).eventRecord = (accountEvent x c ch r).offer := by
  rw [account_eq]
  exact ⟨rfl, rfl, rfl⟩

/-- Without an event a slice below the interval's thresholds leaves none, and the count as it was (R119). -/
theorem accountEvent_idles (hiv : intervalFor x ch.interval = iv) (hidle : ch.event = none)
    (ht : triggers iv.lmax iv.peak r = false) :
    accountEvent x c ch r = ⟨(accountGap x c ch r).interval, none, none, none⟩ := by
  obtain ⟨htakes, -⟩ := accountGap_interval (c := c) (r := r) hiv
  rw [accountEvent, hidle, eventStep_idles (by rwa [htakes.lmax, htakes.peak])]

/-- Without an event a slice that reaches one of the interval's thresholds opens an event with the interval's
parameters, suppressed where the raised count is above EVENT_CAP (R119, R120). -/
theorem accountEvent_opens {l p : Nat} {overload : Bool} (hiv : intervalFor x ch.interval = iv)
    (hidle : ch.event = none) (ht : iv.lmax ≤ l ∨ iv.peak ≤ p) :
    (accountEvent x c ch (.level l p overload)).interval.eventCount = min 65535 (iv.eventCount + 1) ∧
      (accountEvent x c ch (.level l p overload)).event =
        some ⟨x.tag.time, x.tag.time, 1, 1, x.settings.eventHold, energy l, l, p, none, iv.lmax, iv.peak, iv.cls,
          iv.openTime, decide (iv.cap < (accountEvent x c ch (.level l p overload)).interval.eventCount)⟩ := by
  obtain ⟨htakes, hcount⟩ := accountGap_interval (c := c) (r := .level l p overload) hiv
  rw [accountEvent, hidle, eventStep_opens (by rwa [htakes.lmax, htakes.peak]), openEvent]
  refine ⟨by rw [satInc16_eq, hcount], ?_⟩
  rw [htakes.lmax, htakes.peak, htakes.cls, htakes.openTime, htakes.cap]

/-- Where no event is open none closes (R126). -/
theorem accountEvent_offer_of_none (hidle : ch.event = none) : (accountEvent x c ch r).offer = none := by
  rw [accountEvent, hidle]
  rcases eventStep_idle_cases x c (accountGap x c ch r).interval r with ⟨-, h⟩ | ⟨_, _, _, -, -, h⟩ <;> rw [h]

variable {e : Event}

/-- A slice that reaches one of the open event's own thresholds retriggers it (R121). -/
theorem accountEvent_retriggers {l p : Nat} {overload : Bool} (he : ch.event = some e)
    (ht : e.lmaxThreshold ≤ l ∨ e.peakThreshold ≤ p) :
    accountEvent x c ch (.level l p overload) =
      settleEvent c (accountGap x c ch (.level l p overload)).interval (e.retrigger x.tag.time x.settings.eventHold l p)
        (e.closeCause (.level l p overload)) := by
  rw [accountEvent, he, eventStep_retriggers ht]

/-- Any other slice counts the open event's hold down (R122). -/
theorem accountEvent_countsDown (he : ch.event = some e)
    (ht : triggers e.lmaxThreshold e.peakThreshold r = false) :
    accountEvent x c ch r =
      settleEvent c (accountGap x c ch r).interval (e.countDown r) (e.closeCause r) := by
  rw [accountEvent, he, eventStep_countsDown ht]

/-- An open event never counts another one (R64, R119). -/
theorem accountEvent_count_of_open (hiv : intervalFor x ch.interval = iv) (he : ch.event = some e) :
    (accountEvent x c ch r).interval.eventCount = iv.eventCount := by
  obtain ⟨-, hcount⟩ := accountGap_interval (c := c) (r := r) hiv
  rcases Bool.eq_false_or_eq_true (triggers e.lmaxThreshold e.peakThreshold r) with ht | ht
  · obtain ⟨l, p, overload, rfl, hhit⟩ := triggers_eq_true.1 ht
    rw [accountEvent_retriggers he hhit, settleEvent_interval, hcount]
  · rw [accountEvent_countsDown he ht, settleEvent_interval, hcount]

end

/-! ### The EVENT records of a boundary (R126, R127, R153) -/

section
variable {heard : List Byte} {s : State} {now : Time} {c : Channel}

/-- With nothing pending the one EVENT record that a boundary can offer of a channel is that of its account. -/
theorem mem_batch_event {o : Offer} (hc : o.channel = some c) (hkind : o.body.kind = 2) :
    o ∈ batch (frameAtBoundary heard s) none now ↔ (deadline (frameAtBoundary heard s) c).eventRecord = some o := by
  obtain ⟨hgap, -, hnatural, hforced⟩ := channelWork_records heard s none c
  rw [mem_batch_channel hc, channelWork_none, or_iff_left (fun ⟨_, ht, _⟩ => nomatch ht), ChannelWork.mem_records]
  refine ⟨?_, fun hr => .inr (.inl hr)⟩
  rintro (hr | hr | hr | hr)
  · exact absurd ((hgap o hr).2.symm.trans hkind) (by decide)
  · exact hr
  · exact absurd ((hnatural o hr).2.symm.trans hkind) (by decide)
  · exact absurd ((hforced o hr).2.symm.trans hkind) (by decide)

theorem batch_no_event (h : (deadline (frameAtBoundary heard s) c).eventRecord = none) :
    ∀ o ∈ batch (frameAtBoundary heard s) none now, o.channel = some c → o.body.kind ≠ 2 := by
  intro o ho hc hkind
  rw [mem_batch_event hc hkind, h] at ho
  cases ho

variable {x : SliceContext} {ch : ChannelState} {r : SliceResult} {iv : Interval} {e : Event}

/-- An event that the account leaves open has no EVENT record. -/
theorem batch_event_kept (hd : deadline (frameAtBoundary heard s) c = account x c ch r)
    (hstep : accountEvent x c ch r = settleEvent c iv e none) :
    (accountEvent x c ch r).event = some e ∧
      ∀ o ∈ batch (frameAtBoundary heard s) none now, o.channel = some c → o.body.kind ≠ 2 := by
  obtain ⟨-, -, hrecord⟩ := account_event x c ch r
  rw [hstep] at hrecord ⊢
  exact ⟨rfl, batch_no_event (by rw [hd, hrecord]; rfl)⟩

/-- An event that the account closes is gone, with its EVENT record unless it is suppressed (R122, R123, R126, R127). -/
theorem batch_event_closed {cause : Cause} (hd : deadline (frameAtBoundary heard s) c = account x c ch r)
    (hstep : accountEvent x c ch r = settleEvent c iv e (some cause)) :
    (accountEvent x c ch r).event = none ∧
      (e.suppressed = false →
        ⟨some c, e.start, .event ⟨e.start, e.lastTrigger, e.duration, e.homeClass, e.homeOpenTime, e.lmaxThreshold,
            e.peakThreshold, e.lmax, e.peak, lconv (e.sum / 8), cause⟩⟩ ∈ batch (frameAtBoundary heard s) none now) ∧
      (e.suppressed = true →
        ∀ o ∈ batch (frameAtBoundary heard s) none now, o.channel = some c → o.body.kind ≠ 2) := by
  obtain ⟨-, -, hrecord⟩ := account_event x c ch r
  rw [hstep] at hrecord ⊢
  have hoffer : (deadline (frameAtBoundary heard s) c).eventRecord = eventOffer c e cause := by rw [hd, hrecord]; rfl
  refine ⟨rfl, fun hkept => (mem_batch_event rfl rfl).2 ?_, fun hsuppressed => batch_no_event ?_⟩ <;>
    rw [hoffer, eventOffer]
  · rw [hkept]
    rfl
  · exact if_pos hsuppressed

end

/-- Settles O47: by whether an event is open, whether the slice triggers, and the cause with which the event closes. -/
theorem eventsOpenHoldAndClose : Obligations.EventsOpenHoldAndClose := by
  intro s heard c ended r iv hclock hnone hlast hr hiv hits
  obtain ⟨ch, hd, hinterval, -, -, hevent, -⟩ := deadline_accounts hlast hr
  have hchannel := boundary_channel heard c hnone
  have hbatch := boundaryWork_batch heard s
  rw [hnone] at hbatch
  rw [hd] at hchannel
  rw [← hinterval] at hiv
  rw [← hevent]
  obtain ⟨haccount, hopen, hrecord⟩ := account_event (s.sliceContext ended.tag) c ch r
  refine ⟨_, (accountEvent (s.sliceContext ended.tag) c ch r).interval, _, exec_boundary heard hclock,
    by rw [hchannel, haccount], hbatch, batch_ordered heard s none _, ?_⟩
  rw [hchannel, hopen]
  refine ⟨fun hidle => ?_, fun hidle hnot => ?_, ?_, fun e he => ?_⟩
  · exact batch_no_event (by rw [hd, hrecord, accountEvent_offer_of_none hidle])
  · rw [accountEvent_idles hiv hidle (triggers_eq_false.2 hnot)]
    exact ⟨rfl, (accountGap_interval hiv).2⟩
  · rintro l p overload hidle rfl ht
    exact accountEvent_opens hiv hidle ht
  refine ⟨accountEvent_count_of_open hiv he, ?_, fun hnot => ?_⟩
  · rintro l p overload rfl ht q e'
    have hstep := accountEvent_retriggers (x := s.sliceContext ended.tag) (c := c) (overload := overload) he ht
    have hhit : triggers e.lmaxThreshold e.peakThreshold (.level l p overload) = true ∨ 2 ≤ e.hold :=
      .inl (triggers_eq_true.2 ⟨l, p, overload, rfl, ht⟩)
    refine ⟨fun hage => ?_, fun hage => ?_⟩
    · rw [Event.closeCause_eq_none.2 ⟨hhit, hage⟩] at hstep
      exact batch_event_kept hd hstep
    · rw [Event.closeCause_eq_long.2 ⟨hhit, hage⟩] at hstep
      exact batch_event_closed hd hstep
  · have ht := triggers_eq_false.2 hnot
    have hstep := accountEvent_countsDown (x := s.sliceContext ended.tag) (c := c) he ht
    refine ⟨fun hhold hage => ?_, fun hhold => ?_, fun hhold hage => ?_⟩
    · rw [Event.closeCause_eq_none.2 ⟨.inr hhold, hage⟩] at hstep
      obtain ⟨hstays, hoffers⟩ := batch_event_kept hd hstep
      obtain ⟨pending, heq, hpending⟩ := e.countDown_eq r
      exact ⟨hoffers, pending, hstays.trans (congrArg some heq), hpending⟩
    · rw [Event.closeCause_eq_hold.2 ⟨ht, hhold⟩] at hstep
      exact batch_event_closed hd hstep
    · rw [Event.closeCause_eq_long.2 ⟨.inr hhold, hage⟩] at hstep
      exact batch_event_closed hd hstep

end Sys2Proof.Machine
end

section
/-! PROOFS. The warning fraction, the interlock routes and their lock, and the interlock lines. -/

namespace Sys2Proof.Machine

/-! ### The routing lock (R146, R148) -/

theorem transactionBytes_setRoute_port {p q : Port} {rest bytes : List Byte}
    (h : transactionBytes (.setRoute p rest) = some (q, bytes)) : p = q :=
  congrArg Prod.fst (Option.some.inj h)

theorem transactionBytes_lockRouting_port {p q : Port} {rest bytes : List Byte}
    (h : transactionBytes (.lockRouting p rest) = some (q, bytes)) : p = q :=
  congrArg Prod.fst (Option.some.inj h)

/-- Settles O24, by what each command can do to the matrix: nothing, SET_ROUTE's one route, or LOCK_ROUTING's lock. -/
theorem routingLockHolds : Obligations.RoutingLockHolds := by
  intro i s t hi ht
  rcases exec_matrix ht with hsame | ⟨hpower, -⟩ | ⟨p, rest, line, route, rfl, hmay, hset⟩ | ⟨rest, rfl, hlock⟩
  case inl =>
    rw [hsame]
    exact ⟨id, fun _ _ => rfl, fun _ => rfl⟩
  case inr.inl => exact absurd hpower hi
  case inr.inr.inl =>
    rw [hset]
    refine ⟨id, fun hlocked ⟨bytes, hsite⟩ => ?_, fun hno => absurd rfl (hno p rest)⟩
    cases transactionBytes_setRoute_port hsite
    rcases hmay with hport | hopen
    · cases hport
    · cases hlocked.symm.trans hopen
  case inr.inr.inr =>
    rw [hlock]
    refine ⟨fun _ => rfl, fun _ ⟨bytes, hsite⟩ => ?_, fun _ => rfl⟩
    cases transactionBytes_lockRouting_port hsite

/-! ### SET_WARN_FRACTION (R52, R136) -/

/-- The allowance state by its formula (R51, R52). -/
theorem allowanceState_eq (planned limit tot bg fraction : Nat) :
    allowanceState planned limit tot bg fraction =
      let a := planned * energy limit
      let used := tot - bg
      if a ≤ used then .exhausted
      else if (a - used) * 256 < a * fraction then .warning
      else .clear := rfl

theorem put1_toNat (b : Byte) : put1 b.toNat = [b] := by
  rw [put1, BitVec.ofNat_toNat, BitVec.setWidth_eq]

/-- The rule of SET_WARN_FRACTION on the byte of its frame. -/
theorem setWarnFractionRule_eq (s : State) (p : Port) (v : Byte) :
    setWarnFractionRule p [v] s =
      .complete
        (State.offerConfig
          { s with
            settings := { s.settings with warnFraction := v.toNat }
            channels := Oct.ofFn fun c => (s.channel c).rewarn v.toNat }
          p (.warnFraction v.toNat s.settings.warnFraction))
        .ok [v] := by
  simp only [setWarnFractionRule, arg1_zero, put1_toNat, Oct.map_eq_ofFn]
  rfl

/-- Settles O22: the rule forms each open interval's allowance state anew on the state that it finds. -/
theorem setWarnFractionReformsTheStates : Obligations.SetWarnFractionReformsTheStates := by
  intro v s h
  refine siteCommand_answered h rfl (by decide) (setWarnFractionRule_eq _ _ _) ?_
  simp only [ChannelState.rewarn, Interval.rewarn, allowanceState_eq, State.opened_channel]
  rfl

/-! ### SET_ROUTE and LOCK_ROUTING (R144, R145, R146) -/

/-- A command of both ports that its rule refuses changes nothing but its port (R178). -/
theorem bothCommand_refused {n : Nat} {p : Port} {args : List Byte} {rule : List Byte → State → Answer} {s : State}
    {status : Status} (h : s.takes p = true) (hlen : args.length = n) (hn : n ≤ 250)
    (hr : rule args (s.opened p) = refuse (s.opened p) status) :
    portCommand (bothCommand n) p (framed args) rule s = .next (s.refusedWith p status) := by
  rw [portCommand_framed h (hlen ▸ hn) (by cases p <;> rfl) (by simp [bothCommand, ArgLength.fits, hlen]), hr,
    opened_takeAnswer_refuse]

section
variable {s : State} {p : Port} {line source polarity : Byte}

theorem setRouteRule_locked (h : p = .site ∧ s.matrix.locked = true) (args : List Byte) :
    setRouteRule p args s = refuse s .locked := by
  rw [setRouteRule, if_pos h]

/-- The lock stops the site port alone (R145). -/
theorem not_lockedOut_iff : ¬(p = .site ∧ s.matrix.locked = true) ↔ p = .authority ∨ s.matrix.locked = false := by
  cases p <;> simp

theorem setRouteRule_range (h : p = .authority ∨ s.matrix.locked = false)
    (hrange : 8 ≤ line.toNat ∨ 25 ≤ source.toNat ∨ 2 ≤ polarity.toNat) :
    setRouteRule p [line, source, polarity] s = refuse s .range := by
  rw [setRouteRule, if_neg (not_lockedOut_iff.2 h)]
  simp only [arg1_zero, arg1_succ]
  split
  case h_1 hl hk hpol =>
    rw [← finOf_eq_none, ← sourceOf_eq_none, ← polarityOf_eq_none, hl, hk, hpol] at hrange
    simp at hrange
  case h_2 => rfl

theorem setRouteRule_route {l : Line} {k : Source} {pol : Polarity} (h : p = .authority ∨ s.matrix.locked = false)
    (hl : line.toNat = l.val) (hk : source.toNat = k.code) (hpol : polarity.toNat = pol.code) :
    setRouteRule p [line, source, polarity] s =
      .complete
        (State.offerConfig { s with matrix := { s.matrix with routes := s.matrix.routes.set l ⟨k, pol⟩ } } p
          (.route l ⟨k, pol⟩ (s.matrix.routes.get l) s.matrix.locked))
        .ok [line, source, polarity] := by
  have hbytes : put1 l.val ++ putRoute ⟨k, pol⟩ = [line, source, polarity] := by
    rw [putRoute, ← hl, ← hk, ← hpol, put1_toNat, put1_toNat, put1_toNat]
    rfl
  rw [setRouteRule, if_neg (not_lockedOut_iff.2 h)]
  simp only [arg1_zero, arg1_succ, finOf_eq_some.2 hl, hk, sourceOf_code, polarityOf_eq_some.2 hpol, hbytes]

end

theorem lockRoutingRule_eq (s : State) (p : Port) (args : List Byte) :
    lockRoutingRule p args s =
      .complete
        (State.offerConfig { s with matrix := { s.matrix with locked := true } } p (.routingLock s.matrix.locked))
        .ok [0x01#8] := rfl

/-- Settles O23: SET_ROUTE by the checks of its rule in order, and LOCK_ROUTING. -/
theorem routesAreSetUnlessLocked : Obligations.RoutesAreSetUnlessLocked := by
  refine ⟨fun p s line source polarity h =>
    ⟨fun hlocked => ?_, fun hmay hrange => ?_, fun l k pol hmay hl hk hpol => ?_⟩, fun s h => ?_⟩
  · exact bothCommand_refused h rfl (by decide) (setRouteRule_locked (by simpa using hlocked) _)
  · exact bothCommand_refused h rfl (by decide) (setRouteRule_range (by simpa using hmay) hrange)
  · exact bothCommand_answered h rfl (by decide) (setRouteRule_route (by simpa using hmay) hl hk hpol)
      (by cases p <;> rfl)
  · exact authorityCommand_answered h rfl (by decide) (lockRoutingRule_eq _ _ _) rfl

/-! ### The interlock lines (R138, R139, R143) -/

theorem Polarity.drive_eq_true {pol : Polarity} {b : Bool} :
    pol.drive b = true ↔ (pol = .activeHigh ↔ b = true) := by
  cases pol <;> simp [Polarity.drive]

theorem State.out_of_nrstLow {s : State} (h : s.nrstLow = true) (l : Line) : s.out l = false := by
  simp [State.out, h]

theorem State.out_of_route {s : State} {l : Line} {k : Source} {pol : Polarity} (h : s.nrstLow = false)
    (hroute : s.matrix.routes.get l = ⟨k, pol⟩) : s.out l = pol.drive (s.source k) := by
  simp [State.out, h, hroute]

theorem ChannelState.warns_eq_true {ch : ChannelState} : ch.warns = true ↔ ch.allowance ≠ .clear := decide_eq_true_iff

theorem ChannelState.exhausted_eq_true {ch : ChannelState} : ch.exhausted = true ↔ ch.allowance = .exhausted :=
  decide_eq_true_iff

section
variable (s : State)

theorem State.warnAny_eq_true : s.warnAny = true ↔ ∃ c, (s.channel c).allowance ≠ .clear := by
  simp only [State.warnAny, Oct.any_eq_true, ChannelState.warns_eq_true, State.channel]

theorem State.exhaustAny_eq_true : s.exhaustAny = true ↔ ∃ c, (s.channel c).allowance = .exhausted := by
  simp only [State.exhaustAny, Oct.any_eq_true, ChannelState.exhausted_eq_true, State.channel]

theorem State.eventAny_eq_true : s.eventAny = true ↔ ∃ c, (s.channel c).event ≠ none := by
  simp only [State.eventAny, Oct.any_eq_true, Option.isSome_iff_ne_none, State.channel]

theorem State.headLost_eq_true : s.headLost = true ↔ ∃ c, (s.channel c).link = .lost := by
  simp only [State.headLost, Oct.any_eq_true, decide_eq_true_iff, State.channel]

theorem State.prohibitedSlot_eq_true :
    s.prohibitedSlot = true ↔ ∃ tag, s.timebase.slice = some tag ∧ tag.plant = false := by
  unfold State.prohibitedSlot
  cases s.timebase.slice with
  | none => simp
  | some tag => simp

end

theorem Log.high_eq_true (log : Log) : log.high = true ↔ 192 ≤ log.all.length := by
  rw [Log.high, decide_eq_true_iff, Log.length_all]
  rfl

/-- Settles O25: the line by its route, and each source by its own test. -/
theorem linesFollowTheirRoutes : Obligations.LinesFollowTheirRoutes := by
  intro s l
  refine ⟨fun hlow => State.out_of_nrstLow hlow l, fun hhigh k pol hroute => ?_, rfl, rfl,
    fun c => ⟨ChannelState.warns_eq_true, ChannelState.exhausted_eq_true⟩, s.warnAny_eq_true, s.exhaustAny_eq_true,
    s.eventAny_eq_true, s.prohibitedSlot_eq_true, Option.isSome_iff_ne_none, s.headLost_eq_true, s.log.high_eq_true⟩
  rw [State.out_of_route hhigh hroute, Polarity.drive_eq_true]

end Sys2Proof.Machine
end

section
/-! PROOFS. The assessment log: what every step keeps of the numbers that it holds and of its cursor. -/

namespace Sys2Proof.Machine

/-! ### Consecutive numbers (R151) -/

@[simp] theorem length_consecutive (next : BitVec 32) (n : Nat) : (consecutive next n).length = n := by
  simp [consecutive]

@[simp] theorem consecutive_zero (next : BitVec 32) : consecutive next 0 = [] := rfl

/-- The oldest of some numbers that end below N, and the ones behind it. -/
theorem consecutive_succ (next : BitVec 32) (n : Nat) :
    consecutive next (n + 1) = (next - BitVec.ofNat 32 (n + 1)) :: consecutive next n := by
  unfold consecutive
  rw [List.range_succ_eq_map, List.map_cons, List.map_map]
  congr 1
  refine List.map_congr_left fun i _ => ?_
  rw [Function.comp_apply, Nat.succ_eq_add_one, Nat.add_sub_add_right]

/-- The number N joins the numbers below it at the end. -/
theorem consecutive_snoc (next : BitVec 32) (n : Nat) :
    consecutive (next + 1) (n + 1) = consecutive next n ++ [next] := by
  induction n with
  | zero => simp [consecutive_succ]
  | succ n ih =>
    have holdest : next + 1 - BitVec.ofNat 32 (n + 1 + 1) = next - BitVec.ofNat 32 (n + 1) := by bv_omega
    rw [consecutive_succ, ih, consecutive_succ next n, holdest, List.cons_append]

theorem mem_consecutive {next x : BitVec 32} {n : Nat} :
    x ∈ consecutive next n ↔ ∃ k, 1 ≤ k ∧ k ≤ n ∧ x = next - BitVec.ofNat 32 k := by
  induction n with
  | zero => simp
  | succ n ih =>
    rw [consecutive_succ, List.mem_cons, ih]
    constructor
    · rintro (rfl | ⟨k, hk, hkn, rfl⟩)
      · exact ⟨n + 1, by omega, by omega, rfl⟩
      · exact ⟨k, hk, by omega, rfl⟩
    · rintro ⟨k, hk, hkn, rfl⟩
      rcases Nat.lt_or_eq_of_le hkn with hlt | rfl
      · exact .inr ⟨k, hk, by omega, rfl⟩
      · exact .inl rfl

/-- Fewer than 2^32 consecutive numbers are all different. -/
theorem consecutive_nodup {n : Nat} (h : n < 4294967296) (next : BitVec 32) : (consecutive next n).Nodup := by
  induction n with
  | zero => exact List.nodup_nil
  | succ n ih =>
    rw [consecutive_succ, List.nodup_cons]
    refine ⟨fun hmem => ?_, ih (by omega)⟩
    obtain ⟨k, hk, hkn, heq⟩ := mem_consecutive.1 hmem
    bv_omega

/-! ### What each change of the log does to the records held -/

theorem Log.held_eq (log : Log) : log.held = log.all.length := log.length_all.symm

theorem Log.all_append (log : Log) (o : Offer) : (log.append o).all = log.all ++ [⟨log.next, o⟩] :=
  List.append_nil _

theorem Log.all_of_openLoss {log : Log} {l : OpenLoss} (h : log.openLoss = some l) :
    log.all = log.records ++ [l.record] := by
  rw [Log.all, h]
  rfl

theorem Log.all_of_no_openLoss {log : Log} (h : log.openLoss = none) : log.all = log.records := by
  rw [Log.all, h]
  exact List.append_nil _

theorem Log.all_openNewLoss {log : Log} (h : log.openLoss = none) (time : Time) (o : Offer) :
    ∃ r : Record, r.seq = log.next ∧ (log.openNewLoss time o).all = log.all ++ [r] :=
  ⟨_, rfl, by rw [log.all_of_no_openLoss h]; rfl⟩

/-- The final records are all that is held, the open LOSS record apart. -/
theorem Log.length_all_le (log : Log) : log.all.length ≤ log.records.length + 1 := by
  rw [Log.length_all, Log.held]
  split <;> omega

theorem Log.records_length_le_all (log : Log) : log.records.length ≤ log.all.length := by
  rw [Log.length_all, Log.held]
  exact Nat.le_add_right _ _

/-! ### The numbers held run up to N - 1 (R151, R155) -/

theorem Log.Ok.records_le {log : Log} (h : log.Ok) : log.records.length ≤ 255 := h.1

theorem Log.Ok.numbers {log : Log} (h : log.Ok) : log.all.map Record.seq = consecutive log.next log.all.length := by
  obtain ⟨-, hseq⟩ := h
  rw [hseq, Log.held_eq]

theorem Log.Ok.of_numbers {log : Log} (hlen : log.records.length ≤ 255)
    (h : log.all.map Record.seq = consecutive log.next log.all.length) : log.Ok :=
  ⟨hlen, by rw [h, Log.held_eq]⟩

theorem Log.ok_of_all_eq_nil {log : Log} (h : log.all = []) : log.Ok := by
  refine .of_numbers ?_ (by rw [h]; rfl)
  have := log.records_length_le_all
  rw [h] at this
  exact this.trans (by decide)

/-- A log depends on its records and N alone. -/
theorem Log.Ok.congr {log log' : Log} (h : log.Ok) (hrecords : log'.records.length ≤ 255)
    (hall : log'.all.map Record.seq = log.all.map Record.seq) (hnext : log'.next = log.next) : log'.Ok := by
  have hlen : log'.all.length = log.all.length := by simpa only [List.length_map] using congrArg List.length hall
  exact .of_numbers hrecords (by rw [hall, hnext, hlen, h.numbers])

/-- A record numbered N, put behind all that is held, keeps the numbers consecutive. -/
theorem Log.Ok.snoc {log log' : Log} {r : Record} (h : log.Ok) (hlen : log'.records.length ≤ 255)
    (hall : log'.all = log.all ++ [r]) (hr : r.seq = log.next) (hnext : log'.next = log.next + 1) : log'.Ok := by
  refine .of_numbers hlen ?_
  rw [hall, hnext, List.map_append, h.numbers, List.length_append, List.length_singleton, consecutive_snoc,
    List.map_singleton, hr]

theorem Log.take_ok {log : Log} (time : Time) (o : Offer) (h : log.Ok) : (log.take time o).Ok := by
  rcases log.take_cases time o with ⟨hroom, ht⟩ | ⟨l, -, hl, ht⟩ | ⟨-, hl, ht⟩ <;> rw [ht]
  · refine h.snoc ?_ (log.all_append o) rfl rfl
    change (log.all ++ [_]).length ≤ 255
    rw [List.length_append, Log.length_all]
    exact hroom
  · refine h.congr h.records_le ?_ rfl
    rw [log.all_of_openLoss hl, Log.all_of_openLoss rfl, List.map_append, List.map_append]
    rfl
  · obtain ⟨r, hr, hall⟩ := log.all_openNewLoss hl time o
    exact h.snoc h.records_le hall hr rfl

/-- The log without its oldest record, field by field (R160). -/
theorem Log.dropOldest_eq (log : Log) :
    log.dropOldest =
      { log with
        records := log.records.tail
        openLoss := if log.records = [] then none else log.openLoss } := by
  unfold Log.dropOldest
  cases log.records <;> simp

/-- The oldest record leaves the numbers of the younger ones (R160). -/
theorem Log.dropOldest_ok {log : Log} (h : log.Ok) : log.dropOldest.Ok := by
  have hnumbers := h.numbers
  have hrecords : log.dropOldest.records.length ≤ 255 := by
    rw [log.dropOldest_eq]
    exact (List.tail_sublist _).length_le.trans h.records_le
  have hnext : log.dropOldest.next = log.next := by rw [log.dropOldest_eq]
  refine .of_numbers hrecords ?_
  rw [log.dropOldest_all, hnext]
  cases hall : log.all with
  | nil => rfl
  | cons r younger =>
    rw [hall, List.length_cons, consecutive_succ, List.map_cons] at hnumbers
    exact (List.cons.inj hnumbers).2

theorem Log.all_catchUp (log : Log) : log.catchUp.all = log.all := by rw [Log.catchUp_eq]; rfl

theorem Log.catchUp_ok {log : Log} (h : log.Ok) : log.catchUp.Ok := by
  rw [Log.catchUp_eq]
  exact h.congr h.records_le rfl rfl

theorem exec_logOk {i : Instr} {s t : State} (h : s.log.Ok) (ht : exec i s = .next t) : t.log.Ok := by
  rcases exec_log ht with h1 | h1 | h1 | ⟨time, offers, h1⟩ | h1 | h1 | ⟨-, h1⟩ <;> rw [h1]
  · exact h
  · exact Log.ok_of_all_eq_nil rfl
  · exact Log.ok_of_all_eq_nil rfl
  · exact Log.takeAll_induct (fun _ time o => Log.take_ok time o) _ time offers h
  · exact Log.dropOldest_ok h
  · exact Log.catchUp_ok h
  · exact h.congr h.records_le rfl rfl

/-- Settles O27, by what each command can do to the log. -/
theorem logStaysConsecutive : Obligations.LogStaysConsecutive := by
  intro s t h ht
  rcases step_cases ht with ⟨-, rfl⟩ | ⟨i, rest, -, he⟩
  · exact h
  · exact exec_logOk (s := { s with pending := rest }) h he

/-! ### The cursor is N minus the lag (R162) -/

/-- The cursor is N minus the lag, modulo 2^32 (R162). -/
def Log.CursorOk (log : Log) : Prop := log.cursor = log.next - BitVec.ofNat 32 log.lag

/-- An append raises N and the lag together, up to the lag's ceiling. -/
theorem Log.CursorOk.of_appended {log log' : Log} (h : log.lag < 4294967295 → log.CursorOk)
    (hcursor : log'.cursor = log.cursor) (hnext : log'.next = log.next + 1) (hlag : log'.lag = satAdd32 log.lag 1)
    (hroom : log'.lag < 4294967295) : log'.CursorOk := by
  rw [hlag, satAdd32_eq] at hroom
  have hlag' : log'.lag = log.lag + 1 := by rw [hlag, satAdd32_eq]; omega
  have hold : log.cursor = log.next - BitVec.ofNat 32 log.lag := h (by omega)
  unfold Log.CursorOk
  rw [hcursor, hnext, hlag', hold]
  bv_omega

theorem Log.take_cursorOk {log : Log} (time : Time) (o : Offer) (h : log.lag < 4294967295 → log.CursorOk) :
    (log.take time o).lag < 4294967295 → (log.take time o).CursorOk := by
  rcases log.take_cases time o with ⟨-, ht⟩ | ⟨l, -, -, ht⟩ | ⟨-, -, ht⟩ <;> rw [ht]
  · exact Log.CursorOk.of_appended h rfl rfl rfl
  · exact h
  · exact Log.CursorOk.of_appended h rfl rfl rfl

/-- A log that holds a record holds the number `held` below N as its oldest (R151). -/
theorem Log.Ok.oldest_seq {log : Log} (h : log.Ok) :
    (log.all.head?.map Record.seq).getD log.next = log.next - BitVec.ofNat 32 log.held := by
  have hnumbers := h.numbers
  rw [log.held_eq]
  cases hall : log.all with
  | nil => simp
  | cons r younger =>
    rw [hall, List.length_cons, consecutive_succ, List.map_cons] at hnumbers
    exact (List.cons.inj hnumbers).1

/-- A cursor that is brought up stands at N minus its new lag, whatever it was before (R163). -/
theorem Log.catchUp_cursorOk {log : Log} (h : log.Ok) (hc : log.CursorOk ∨ log.held < log.lag) :
    log.catchUp.CursorOk := by
  rw [Log.CursorOk, Log.catchUp_eq]
  by_cases hold : log.held < log.lag
  · simp only [if_pos hold, Nat.min_eq_right hold.le]
    exact h.oldest_seq
  · simp only [if_neg hold, Nat.min_eq_left (Nat.not_lt.1 hold)]
    exact hc.resolve_right hold

theorem Log.advanceCursor_cursorOk {log : Log} (h : log.CursorOk) (hlag : log.lag ≠ 0) :
    log.advanceCursor.CursorOk := by
  unfold Log.CursorOk at h
  simp only [Log.CursorOk, Log.advanceCursor, h]
  bv_omega

theorem exec_cursorOk {i : Instr} {s t : State} (hok : s.log.Ok) (h : s.log.CursorOk) (ht : exec i s = .next t)
    (hlag : t.log.lag < 4294967295) : t.log.CursorOk := by
  rcases exec_log ht with h1 | h1 | h1 | ⟨time, offers, h1⟩ | h1 | h1 | ⟨hne, h1⟩ <;> rw [h1] at hlag ⊢
  · exact h
  · rfl
  · exact h
  · exact Log.takeAll_induct (P := fun log => log.lag < 4294967295 → log.CursorOk)
      (fun _ time o => Log.take_cursorOk time o) _ time offers (fun _ => h) hlag
  · rw [Log.dropOldest_eq]
    exact h
  · exact Log.catchUp_cursorOk hok (.inl h)
  · exact Log.advanceCursor_cursorOk h hne

/-- Settles O28, by what each command can do to the log. -/
theorem cursorFollowsTheNumbers : Obligations.CursorFollowsTheNumbers := by
  intro s t hok h ht hlag
  rcases step_cases ht with ⟨-, rfl⟩ | ⟨i, rest, -, he⟩
  · exact h
  · exact exec_cursorOk (s := { s with pending := rest }) hok h he hlag

end Sys2Proof.Machine
end

section
/-! PROOFS. The capacity rule of the log, and the commands that read it, release from it and move its cursor. -/

namespace Sys2Proof.Machine

/-! ### The capacity rule (R155, R156) -/

theorem Log.take_of_room {log : Log} (h : log.held < 255) (time : Time) (o : Offer) :
    log.take time o = log.append o :=
  if_pos h

theorem Log.take_of_full {log : Log} (h : 255 ≤ log.held) {l : OpenLoss} (hl : log.openLoss = some l) (time : Time)
    (o : Offer) :
    log.take time o = { log with openLoss := some { l with body := l.body.count time o.body } } := by
  rw [Log.take, hl]
  exact if_neg (Nat.not_lt.2 h)

theorem Log.take_of_filled {log : Log} (h : 255 ≤ log.held) (hl : log.openLoss = none) (time : Time) (o : Offer) :
    log.take time o = log.openNewLoss time o := by
  rw [Log.take, hl]
  exact if_neg (Nat.not_lt.2 h)

/-- The 256th place is a LOSS record's alone: an ordinary record finds at most 254 before it (R155). -/
theorem Log.take_records_le {log : Log} (h : log.records.length ≤ 255) (time : Time) (o : Offer) :
    (log.take time o).records.length ≤ 255 := by
  rcases log.take_cases time o with ⟨hroom, ht⟩ | ⟨l, -, -, ht⟩ | ⟨-, -, ht⟩ <;> rw [ht]
  · change (log.all ++ [_]).length ≤ 255
    rw [List.length_append, Log.length_all]
    exact hroom
  · exact h
  · exact h

/-- Settles O26: the three rows of the capacity rule, and the batch and the CONFIG record that go through it. -/
theorem logTakesByTheCapacityRule : Obligations.LogTakesByTheCapacityRule := by
  refine ⟨fun log time o => ⟨fun hroom => ?_, fun l hfull hl => ?_, fun hfilled hl => ?_, fun hlen => ?_⟩,
    fun log time o rest => ⟨log.takeAll_nil time, log.takeAll_cons time o rest⟩, fun s p change => rfl⟩
  · rw [Log.take_of_room (log.held_eq ▸ hroom), Log.append, satAdd32_eq]
  · rw [Log.take_of_full (log.held_eq ▸ hfull) hl, LossBody.count_eq_raised]
  · rw [Log.take_of_filled (log.held_eq ▸ hfilled.ge) hl, Log.openNewLoss, satAdd32_eq, LossBody.count_eq_raised]
    rfl
  · have hrecords := Log.take_records_le hlen time o
    exact ⟨hrecords, (Log.length_all_le _).trans (Nat.succ_le_succ hrecords)⟩

/-! ### FETCH and RELEASE (R159, R160) -/

theorem Log.oldest_of_nil {log : Log} (h : log.all = []) : log.oldest = none := by
  rw [log.oldest_eq, h]
  rfl

theorem Log.oldest_of_cons {log : Log} {oldest : Record} {younger : List Record} (h : log.all = oldest :: younger) :
    log.oldest = some (oldest, decide (log.records ≠ [])) := by
  rw [log.oldest_eq, h]
  rfl

theorem Log.held_of_cons {log : Log} {oldest : Record} {younger : List Record} (h : log.all = oldest :: younger) :
    log.held = 1 + younger.length := by
  rw [log.held_eq, h, List.length_cons, Nat.add_comm]

theorem arg4_put4 (x : BitVec 32) : arg4 (put4 x.toNat) 0 = x.toNat := by
  simpa only [List.append_nil] using arg4_append_put4 [] x.toNat x.isLt

section
variable {s : State} {oldest : Record} {younger : List Record}

theorem fetchRule_nil (h : s.log.all = []) (args : List Byte) : fetchRule args s = refuse s .empty := by
  rw [fetchRule, Log.oldest_of_nil h]

theorem fetchRule_cons (h : s.log.all = oldest :: younger) (args : List Byte) :
    fetchRule args s =
      .complete s .ok (oldest.bytes (decide (s.log.records ≠ [])) ++ put2 (1 + younger.length)) := by
  rw [fetchRule, Log.oldest_of_cons h, Log.held_of_cons h]

theorem releaseRule_nil (h : s.log.all = []) (args : List Byte) : releaseRule args s = refuse s .empty := by
  rw [releaseRule, Log.oldest_of_nil h]

theorem releaseRule_absent {number : BitVec 32} (h : s.log.all = oldest :: younger) (hne : number ≠ oldest.seq) :
    releaseRule (put4 number.toNat) s = refuse s .absent := by
  rw [releaseRule, Log.oldest_of_cons h]
  exact if_pos fun heq => hne (BitVec.eq_of_toNat_eq ((arg4_put4 number).symm.trans heq))

theorem releaseRule_oldest (h : s.log.all = oldest :: younger) :
    releaseRule (put4 oldest.seq.toNat) s =
      .complete { s with log := s.log.dropOldest } .ok (put4 oldest.seq.toNat ++ put2 younger.length) := by
  have hheld : s.log.dropOldest.held = younger.length := by rw [Log.held_eq, Log.dropOldest_all, h, List.tail_cons]
  rw [releaseRule, Log.oldest_of_cons h, ← hheld]
  exact if_neg (not_not_intro (arg4_put4 oldest.seq))

end

/-- Settles O29: each rule reads the oldest record of the log that it finds. -/
theorem fetchReadsAndReleaseRemovesTheOldest : Obligations.FetchReadsAndReleaseRemovesTheOldest := by
  intro s h
  have hlog : (s.opened .authority).log = s.log := s.opened_log .authority
  refine ⟨fun hnil => ⟨?_, fun number => ?_⟩, fun oldest younger hcons =>
    ⟨?_, fun number hne => ?_, s.log.dropOldest, ?_, s.log.dropOldest_eq, ?_⟩⟩
  · exact authorityCommand_refused h rfl (by decide) (fetchRule_nil (hlog ▸ hnil) _)
  · exact authorityCommand_refused h rfl (by decide) (releaseRule_nil (hlog ▸ hnil) _)
  · exact authorityCommand_answered h rfl (by decide) (fetchRule_cons (hlog ▸ hcons) _) rfl
  · exact authorityCommand_refused h rfl (by decide) (releaseRule_absent (hlog ▸ hcons) hne)
  · rw [Log.dropOldest_all, hcons, List.tail_cons]
  · exact authorityCommand_answered h rfl (by decide) (releaseRule_oldest (hlog ▸ hcons)) rfl

/-! ### ADVANCE (R164) -/

theorem advanceRule_empty {s : State} (h : s.log.lag = 0) (args : List Byte) :
    advanceRule args s = refuse s .empty := by
  rw [advanceRule, if_pos h]

theorem advanceRule_moves {s : State} (h : s.log.lag ≠ 0) (args : List Byte) :
    advanceRule args s =
      .complete { s with log := s.log.advanceCursor } .ok
        (put4 (s.log.cursor + 1).toNat ++ put4 (s.log.lag - 1)) := by
  rw [advanceRule, if_neg h]
  rfl

/-! ### PEEK (R163) -/

/-- Records of a consistent log that have the same number are the same record. -/
theorem Log.Ok.eq_of_seq_eq {log : Log} (h : log.Ok) {a b : Record} (ha : a ∈ log.all) (hb : b ∈ log.all)
    (heq : a.seq = b.seq) : a = b := by
  have hlen : log.all.length < 4294967296 :=
    (log.length_all_le.trans (Nat.succ_le_succ h.records_le)).trans_lt (by decide)
  exact List.inj_on_of_nodup_map (h.numbers ▸ consecutive_nodup hlen log.next) ha hb heq

/-- The reading at the cursor finds the record numbered C (R163). -/
theorem Log.atCursor_of_mem {log : Log} (h : log.Ok) {r : Record} (hr : r ∈ log.all) (hseq : r.seq = log.cursor) :
    log.atCursor = some (r, decide (r ∈ log.records)) := by
  rcases log.atCursor_cases with ⟨-, hno⟩ | ⟨r', hmem, hseq', hat⟩ | ⟨l, hl, hseq', hno, hat⟩
  · exact absurd hseq (hno r hr)
  · have hsame : r' = r :=
      h.eq_of_seq_eq (List.mem_append_left _ hmem) hr (hseq'.trans hseq.symm)
    rw [hat, ← hsame, decide_eq_true hmem]
  · have hloss : l.record ∈ log.all := by
      rw [log.all_of_openLoss hl]
      exact List.mem_append_right _ (List.mem_singleton_self _)
    have hsame : l.record = r := h.eq_of_seq_eq hloss hr (Eq.trans hseq' hseq.symm)
    rw [hat, ← hsame, decide_eq_false fun hmem => hno _ hmem hseq']

theorem Log.atCursor_of_not_held {log : Log} (h : ∀ r ∈ log.all, r.seq ≠ log.cursor) : log.atCursor = none := by
  rcases log.atCursor_cases with ⟨hat, -⟩ | ⟨r, hmem, hseq, -⟩ | ⟨l, hl, hseq, -, -⟩
  · exact hat
  · exact absurd hseq (h r (List.mem_append_left _ hmem))
  · refine absurd hseq (h l.record ?_)
    rw [log.all_of_openLoss hl]
    exact List.mem_append_right _ (List.mem_singleton_self _)

/-- While C is N minus a lag of at most the number held, the record numbered C is held (R162). -/
theorem Log.Ok.cursor_held {log : Log} (h : log.Ok) (hc : log.CursorOk) (hlag : log.lag ≠ 0)
    (hle : log.lag ≤ log.all.length) : ∃ r ∈ log.all, r.seq = log.cursor := by
  rw [← List.mem_map, h.numbers, mem_consecutive]
  exact ⟨log.lag, Nat.one_le_iff_ne_zero.2 hlag, hle, hc⟩

theorem Log.records_catchUp (log : Log) : log.catchUp.records = log.records := by rw [Log.catchUp_eq]

theorem Log.lag_catchUp (log : Log) : log.catchUp.lag = min log.lag log.all.length := by
  rw [Log.catchUp_eq, Log.held_eq]

theorem Log.catchUp_frame (log : Log) :
    log.catchUp = { log with lag := log.catchUp.lag, cursor := log.catchUp.cursor } := by
  rw [Log.catchUp_eq]

/-- A cursor no older than the oldest record stays (R163). -/
theorem Log.cursor_catchUp_of_le {log : Log} (h : log.lag ≤ log.all.length) : log.catchUp.cursor = log.cursor := by
  rw [Log.catchUp_eq]
  exact if_neg (Nat.not_lt.2 (log.held_eq ▸ h))

/-- An older one comes to the oldest record, or to N where the log is empty (R163). -/
theorem Log.cursor_catchUp_of_lt {log : Log} (h : log.all.length < log.lag) :
    log.catchUp.cursor = (log.all.head?.map Record.seq).getD log.next := by
  rw [Log.catchUp_eq]
  exact if_pos (log.held_eq ▸ h)

@[simp] theorem Log.length_unheldRecord (log : Log) : log.unheldRecord.length = 48 := by simp [Log.unheldRecord]

theorem Log.skipped_eq (log : Log) : log.skipped = log.lag - log.all.length := by rw [Log.skipped, Log.held_eq]

section
variable {s : State}

theorem peekRule_empty (h : s.log.catchUp.lag = 0) (args : List Byte) :
    peekRule args s =
      .complete { s with log := s.log.catchUp } .empty (put4 (s.log.lag - s.log.all.length)) := by
  rw [← Log.skipped_eq]
  exact if_pos h

theorem peekRule_held {r : Record} {final : Bool} (h : s.log.catchUp.lag ≠ 0)
    (hr : s.log.catchUp.atCursor = some (r, final)) (args : List Byte) :
    peekRule args s =
      .complete { s with log := s.log.catchUp } .ok (r.bytes final ++ put4 (s.log.lag - s.log.all.length)) := by
  simp only [peekRule, if_neg h, hr, Log.skipped_eq]

theorem peekRule_not_held (h : s.log.catchUp.lag ≠ 0) (hr : s.log.catchUp.atCursor = none) (args : List Byte) :
    peekRule args s =
      .complete { s with log := s.log.catchUp } .ok
        (s.log.catchUp.unheldRecord ++ put4 (s.log.lag - s.log.all.length)) := by
  simp only [peekRule, if_neg h, hr, Log.skipped_eq]

end

/-- Settles O30: ADVANCE by its rule; PEEK by its rule on the log whose cursor it has brought up. -/
theorem peekReadsAndAdvanceMovesTheCursor : Obligations.PeekReadsAndAdvanceMovesTheCursor := by
  refine ⟨fun s h => ⟨fun hlag => ?_, fun hlag => ?_⟩, fun s h hok =>
    ⟨s.log.catchUp, s.log.catchUp_frame, s.log.lag_catchUp, Log.cursor_catchUp_of_le, Log.cursor_catchUp_of_lt,
      fun hlag => ?_, fun hlag r hr hseq => ?_, fun hlag hno => ?_, fun hc => ?_⟩⟩
  · exact siteCommand_refused h rfl (by decide) (advanceRule_empty (s.opened_log .site ▸ hlag) _)
  · exact siteCommand_answered h rfl (by decide) (advanceRule_moves (s.opened_log .site ▸ hlag) _) rfl
  · exact siteCommand_answered h rfl (by decide) (peekRule_empty (s.opened_log .site ▸ hlag) _) rfl
  · rw [← s.log.all_catchUp] at hr
    have hat := Log.atCursor_of_mem (Log.catchUp_ok hok) hr hseq
    rw [s.log.records_catchUp] at hat
    exact siteCommand_answered h rfl (by decide)
      (peekRule_held (s.opened_log .site ▸ hlag) (s.opened_log .site ▸ hat) _) rfl
  · rw [← s.log.all_catchUp] at hno
    have hat := Log.atCursor_of_not_held hno
    exact ⟨s.log.catchUp.unheldRecord, s.log.catchUp.length_unheldRecord, siteCommand_answered h rfl (by decide)
      (peekRule_not_held (s.opened_log .site ▸ hlag) (s.opened_log .site ▸ hat) _) rfl⟩
  · have hcursor : s.log.catchUp.CursorOk := Log.catchUp_cursorOk hok (s.log.held_eq ▸ hc)
    have hnext : s.log.catchUp.next = s.log.next := by rw [Log.catchUp_eq]
    refine ⟨hnext ▸ hcursor, fun hlag => ?_⟩
    rw [← s.log.all_catchUp]
    refine (Log.catchUp_ok hok).cursor_held hcursor hlag ?_
    rw [s.log.lag_catchUp, s.log.all_catchUp]
    exact Nat.min_le_right _ _

end Sys2Proof.Machine
end

section
/-! PROOFS. Transactions as steps: their bytes, and what each command that a code names is. -/

namespace Sys2Proof.Machine

/-! ### Bytes of a transaction (R172, R173, R198) -/

theorem byte_eq_of_toNat {b : Byte} {n : Nat} (h : b.toNat = n) : b = BitVec.ofNat 8 n := by
  rw [← h, BitVec.ofNat_toNat, BitVec.setWidth_eq]

/-- The code of a command stands first in the bytes of its transaction. -/
theorem transactionBytes_of_commandOf {code : Byte} {command : Port → List Byte → Instr}
    (h : commandOf code = some command) (p : Port) (rest : List Byte) :
    (command p rest).wellFormed = true ∧ transactionBytes (command p rest) = some (p, code :: rest) := by
  unfold commandOf at h
  split at h
  case h_33 => cases h
  all_goals
    rename_i hcode
    cases byte_eq_of_toNat hcode
    cases h
    exact ⟨rfl, rfl⟩

theorem decodeTransaction_command {code : Byte} {command : Port → List Byte → Instr} (hcode : code ≠ 0)
    (h : commandOf code = some command) (p : Port) (rest : List Byte) :
    decodeTransaction p (code :: rest) = command p rest := by
  simp only [decodeTransaction, if_neg hcode, h]

theorem decodeTransaction_unknown {code : Byte} (hcode : code ≠ 0) (h : commandOf code = none) (p : Port)
    (rest : List Byte) : decodeTransaction p (code :: rest) = .unknownCommand p code rest := by
  simp only [decodeTransaction, if_neg hcode, h]

theorem wellFormed_unknownCommand {p : Port} {code : Byte} {rest : List Byte} :
    (Instr.unknownCommand p code rest).wellFormed = true ↔ code ≠ 0 ∧ commandOf code = none := by
  simp [Instr.wellFormed, namesCommand]

/-- Settles O3: step by step one way; by the first byte the other way. -/
theorem transactionsReadBack : Obligations.TransactionsReadBack := by
  refine ⟨fun i p bytes hwf h => ?_, fun p bytes => ?_⟩
  · cases i
    case unknownCommand q code rest =>
      cases h
      obtain ⟨hcode, hnone⟩ := wellFormed_unknownCommand.1 hwf
      exact decodeTransaction_unknown hcode hnone _ _
    all_goals
      cases h <;> rfl
  · match bytes with
    | [] => exact ⟨rfl, rfl⟩
    | code :: rest =>
      by_cases hcode : code = 0
      · cases hcode
        exact ⟨rfl, rfl⟩
      · cases hcommand : commandOf code with
        | some command =>
          rw [decodeTransaction_command hcode hcommand]
          exact transactionBytes_of_commandOf hcommand p rest
        | none =>
          rw [decodeTransaction_unknown hcode hcommand]
          exact ⟨wellFormed_unknownCommand.2 ⟨hcode, hcommand⟩, rfl⟩

end Sys2Proof.Machine
end

section
/-! PROOFS. What the answer of each command keeps of the ports and of the queue, and how long its data are. -/

namespace Sys2Proof.Machine

/-! ### What an answer keeps (R174, R178, R179) -/

/-- An answer of a command on port `p`, given on the state `u`: one that completes keeps the queue, the other port and
COLLIDED, with at most 250 bytes of data; one that waits is the authority's. -/
def Answer.Keeps (p : Port) (u : State) : Answer → Prop
  | .complete t _ data =>
    t.pending = u.pending ∧ t.port (otherPort p) = u.port (otherPort p) ∧
      (t.port p).collided = (u.port p).collided ∧ data.length ≤ 250
  | .wait _ => p = .authority

section
variable {p : Port} {u t : State} {status : Status} {data : List Byte}

theorem Answer.keeps_of_ports (hpending : t.pending = u.pending) (hsite : t.site = u.site)
    (hauthority : t.authority = u.authority) (hlen : data.length ≤ 250) :
    (Answer.complete t status data).Keeps p u := by
  have hports : ∀ q, t.port q = u.port q := fun q => by cases q <;> assumption
  exact ⟨hpending, hports _, congrArg PortState.collided (hports p), hlen⟩

theorem Answer.keeps_same (hlen : data.length ≤ 250) : (Answer.complete u status data).Keeps p u :=
  Answer.keeps_of_ports rfl rfl rfl hlen

theorem Answer.keeps_refuse : (refuse u status).Keeps p u := Answer.keeps_same (Nat.zero_le _)

theorem Answer.keeps_mapPort {f : PortState → PortState} (hf : ∀ q, (f q).collided = q.collided)
    (hlen : data.length ≤ 250) : (Answer.complete (u.mapPort p f) status data).Keeps p u := by
  refine ⟨State.mapPort_pending u p f, State.mapPort_port_other u p f, ?_, hlen⟩
  rw [State.mapPort_port]
  exact hf _

end

/-! ### The bytes of the status reads (R188, R189, R190) -/

/-- The bytes of READ_DEVICE_STATUS, group by group. -/
def deviceStatus (s : State) (p : Port) : List Byte :=
  timeStatus s ++ lineStatus s ++ episodeStatus s ++ logStatus s ++ portStatus s p

theorem length_deviceStatus (s : State) (p : Port) : (deviceStatus s p).length = 66 := by
  simp [deviceStatus, timeStatus, lineStatus, episodeStatus, logStatus, portStatus]

/-- The bytes of READ_CHANNEL_STATUS, group by group. -/
def channelStatus (ch : ChannelState) (bgMin : Nat) : List Byte :=
  linkStatus ch ++ intervalStatus ch ++ eventStatus ch bgMin

theorem length_channelStatus (ch : ChannelState) (bgMin : Nat) : (channelStatus ch bgMin).length = 61 := by
  simp [channelStatus, linkStatus, intervalStatus, eventStatus]

/-- The longest sections are the two slot tables and the class table, of 96 bytes each (R190). -/
theorem length_configSection_le {s : State} {n : Nat} {bytes : List Byte} (h : configSection s n = some bytes) :
    bytes.length ≤ 96 := by
  unfold configSection at h
  iterate 7
    split at h
    · cases h
      simp [slotBytes, List.length_flatMap, Oct.toList]
  cases h

/-! ### Each rule, in the order of the codes (R198) -/

section
variable (p : Port) (args : List Byte) (u : State)

theorem setTimeRule_keeps : (setTimeRule args u).Keeps .authority u := by
  unfold setTimeRule
  split
  · exact rfl
  · exact Answer.keeps_refuse

theorem setCalendarSlotsRule_keeps : (setCalendarSlotsRule p args u).Keeps p u := by
  simp only [setCalendarSlotsRule]
  split
  · exact Answer.keeps_refuse
  · split
    · split
      · exact Answer.keeps_refuse
      · exact Answer.keeps_of_ports rfl rfl rfl (by simp)
    · exact Answer.keeps_refuse

theorem setClassRule_keeps : (setClassRule p args u).Keeps p u := by
  unfold setClassRule
  split
  · exact Answer.keeps_of_ports rfl rfl rfl (by simp)
  · exact Answer.keeps_refuse

theorem setDayRulesRule_keeps : (setDayRulesRule p args u).Keeps p u := by
  unfold setDayRulesRule
  split
  · split
    · exact Answer.keeps_refuse
    · exact Answer.keeps_of_ports rfl rfl rfl (by simp)
  · exact Answer.keeps_refuse

theorem addRestDayRule_keeps : (addRestDayRule p args u).Keeps p u := by
  simp only [addRestDayRule]
  split
  · exact Answer.keeps_refuse
  · split
    · exact Answer.keeps_refuse
    · split
      · exact Answer.keeps_refuse
      · split
        · exact Answer.keeps_refuse
        · exact Answer.keeps_of_ports rfl rfl rfl (by simp)

theorem dropRestDayRule_keeps : (dropRestDayRule p args u).Keeps p u := by
  simp only [dropRestDayRule]
  split
  · exact Answer.keeps_refuse
  · exact Answer.keeps_of_ports rfl rfl rfl (by simp)

theorem channelOnRule_keeps : (channelOnRule args u).Keeps .authority u := by
  unfold channelOnRule
  split
  · exact Answer.keeps_refuse
  · split
    · exact Answer.keeps_same (by simp [channelData])
    · exact rfl

theorem channelOffRule_keeps : (channelOffRule args u).Keeps .authority u := by
  unfold channelOffRule
  split
  · exact Answer.keeps_refuse
  · split
    · exact rfl
    · exact Answer.keeps_same (by simp [channelData])

theorem setActivityLinesRule_keeps : (setActivityLinesRule p args u).Keeps p u :=
  Answer.keeps_of_ports rfl rfl rfl (by simp)

theorem setBackgroundRule_keeps : (setBackgroundRule p args u).Keeps p u :=
  Answer.keeps_of_ports rfl rfl rfl (by simp)

theorem setEventRule_keeps : (setEventRule p args u).Keeps p u :=
  Answer.keeps_of_ports rfl rfl rfl (by simp)

theorem setGapRule_keeps : (setGapRule p args u).Keeps p u := by
  simp only [setGapRule]
  split
  · exact Answer.keeps_refuse
  · exact Answer.keeps_of_ports rfl rfl rfl (by simp)

theorem lockRoutingRule_keeps : (lockRoutingRule p args u).Keeps p u :=
  Answer.keeps_of_ports rfl rfl rfl (by simp)

theorem cutRule_keeps : (cutRule args u).Keeps .authority u := by
  unfold cutRule
  split
  · exact Answer.keeps_refuse
  · exact rfl

theorem clearCountersRule_keeps : (clearCountersRule p args u).Keeps p u :=
  Answer.keeps_of_ports rfl rfl rfl (Nat.zero_le _)

theorem fetchRule_keeps : (fetchRule args u).Keeps p u := by
  unfold fetchRule
  split
  · exact Answer.keeps_refuse
  · exact Answer.keeps_same (by simp [Record.length_bytes])

theorem releaseRule_keeps : (releaseRule args u).Keeps p u := by
  unfold releaseRule
  split
  · exact Answer.keeps_refuse
  · split
    · exact Answer.keeps_refuse
    · exact Answer.keeps_of_ports rfl rfl rfl (by simp)

theorem setWarnFractionRule_keeps : (setWarnFractionRule p args u).Keeps p u :=
  Answer.keeps_of_ports rfl rfl rfl (by simp)

theorem activityPulseRule_keeps : (activityPulseRule args u).Keeps p u := by
  unfold activityPulseRule
  split
  · exact Answer.keeps_refuse
  · exact Answer.keeps_of_ports rfl rfl rfl (by simp)

theorem peekRule_keeps : (peekRule args u).Keeps p u := by
  simp only [peekRule]
  split
  · exact Answer.keeps_of_ports rfl rfl rfl (by simp)
  · split
    · exact Answer.keeps_of_ports rfl rfl rfl (by simp)
    · exact Answer.keeps_of_ports rfl rfl rfl (by simp [Record.length_bytes])

theorem advanceRule_keeps : (advanceRule args u).Keeps p u := by
  unfold advanceRule
  split
  · exact Answer.keeps_refuse
  · exact Answer.keeps_of_ports rfl rfl rfl (by simp)

theorem setRouteRule_keeps : (setRouteRule p args u).Keeps p u := by
  unfold setRouteRule
  split
  · exact Answer.keeps_refuse
  · split
    · exact Answer.keeps_of_ports rfl rfl rfl (by simp)
    · exact Answer.keeps_refuse

theorem setEdgesRule_keeps : (setEdgesRule p args u).Keeps p u :=
  Answer.keeps_mapPort (fun _ => rfl) (by simp)

theorem clearEdgesRule_keeps : (clearEdgesRule p args u).Keeps p u :=
  Answer.keeps_mapPort (fun _ => rfl) (by simp)

theorem readEdgesRule_keeps : (readEdgesRule p args u).Keeps p u := Answer.keeps_same (by simp)

theorem setAttentionRule_keeps : (setAttentionRule p args u).Keeps p u := by
  simp only [setAttentionRule]
  split
  · exact Answer.keeps_refuse
  · exact Answer.keeps_mapPort (fun _ => rfl) (by simp)

theorem latchRule_keeps : (latchRule p args u).Keeps p u := by
  simp only [latchRule]
  split
  · exact Answer.keeps_refuse
  · exact Answer.keeps_mapPort (fun _ => rfl) (by simp)

theorem readSnapshotRule_keeps : (readSnapshotRule p args u).Keeps p u := by
  unfold readSnapshotRule
  split
  · exact Answer.keeps_refuse
  · split
    · exact Answer.keeps_refuse
    · exact Answer.keeps_mapPort (fun _ => rfl) (by simp [Capture.bytes])

theorem readDeviceStatusRule_keeps : (readDeviceStatusRule p args u).Keeps p u :=
  Answer.keeps_same ((length_deviceStatus u p).trans_le (by decide))

theorem readChannelStatusRule_keeps : (readChannelStatusRule args u).Keeps p u := by
  unfold readChannelStatusRule
  split
  · exact Answer.keeps_refuse
  · exact Answer.keeps_same ((length_channelStatus _ _).trans_le (by decide))

theorem readConfigRule_keeps : (readConfigRule args u).Keeps p u := by
  unfold readConfigRule
  split
  · exact Answer.keeps_refuse
  · exact Answer.keeps_same ((length_configSection_le ‹_›).trans (by decide))

end

end Sys2Proof.Machine
end

section
/-! PROOFS. Command transactions: what they are as steps, when they are ignored or discarded, and the frame checks. -/

namespace Sys2Proof.Machine

/-! ### The rows of the List of Command Codes (R180, R198) -/

/-- The row of a command code: its step is the taking of a port command with the info `k`, whose privileges and lengths
are those of R180 and R198, and with a rule that keeps what an answer keeps. -/
structure IsCommand (code : Byte) (command : Port → List Byte → Instr) (k : CommandInfo)
    (rule : Port → List Byte → State → Answer) : Prop where
  exec_eq : ∀ p rest s, exec (command p rest) s = portCommand k p rest (rule p) s
  permits_eq : ∀ p, k.permits p = permittedTo p code
  fits_eq : ∀ n, k.length.fits n = acceptsLength code n
  keeps : ∀ p args u, k.permits p = true → (rule p args u).Keeps p u

section
variable {code : Byte} {command : Port → List Byte → Instr} {rule : Port → List Byte → State → Answer}

/-- An authority's row: its code is below 40h, and only the authority's answers count. -/
theorem isCommand_authority {length : ArgLength} (hkeeps : ∀ args u, (rule .authority args u).Keeps .authority u)
    (hexec : ∀ p rest s, exec (command p rest) s = portCommand ⟨false, true, length⟩ p rest (rule p) s := by
      intros; rfl)
    (hcode : code.toNat < 0x40 := by decide) (hfits : ∀ n, length.fits n = acceptsLength code n := by intros; rfl) :
    IsCommand code command ⟨false, true, length⟩ rule where
  exec_eq := hexec
  permits_eq := fun p => by cases p <;> simp [CommandInfo.permits, permittedTo] <;> omega
  fits_eq := hfits
  keeps := fun p args u hp => by
    cases p
    case site => cases hp
    case authority => exact hkeeps args u

/-- A site's row: its code is one of 40h to 5Fh. -/
theorem isCommand_site {length : ArgLength} (hkeeps : ∀ p args u, (rule p args u).Keeps p u)
    (hexec : ∀ p rest s, exec (command p rest) s = portCommand ⟨true, false, length⟩ p rest (rule p) s := by
      intros; rfl)
    (hcode : 0x40 ≤ code.toNat ∧ code.toNat < 0x60 := by decide)
    (hfits : ∀ n, length.fits n = acceptsLength code n := by intros; rfl) :
    IsCommand code command ⟨true, false, length⟩ rule where
  exec_eq := hexec
  permits_eq := fun p => by cases p <;> simp [CommandInfo.permits, permittedTo] <;> omega
  fits_eq := hfits
  keeps := fun p args u _ => hkeeps p args u

/-- A row of both ports: its code is 60h or above. -/
theorem isCommand_both {length : ArgLength} (hkeeps : ∀ p args u, (rule p args u).Keeps p u)
    (hexec : ∀ p rest s, exec (command p rest) s = portCommand ⟨true, true, length⟩ p rest (rule p) s := by
      intros; rfl)
    (hcode : 0x60 ≤ code.toNat := by decide) (hfits : ∀ n, length.fits n = acceptsLength code n := by intros; rfl) :
    IsCommand code command ⟨true, true, length⟩ rule where
  exec_eq := hexec
  permits_eq := fun p => by cases p <;> simp [CommandInfo.permits, permittedTo] <;> omega
  fits_eq := hfits
  keeps := fun p args u _ => hkeeps p args u

end

/-- Every code that names a command has its row. -/
theorem exists_isCommand {code : Byte} {command : Port → List Byte → Instr} (h : commandOf code = some command) :
    ∃ k rule, IsCommand code command k rule := by
  unfold commandOf at h
  split at h
  case h_33 => cases h
  all_goals
    rename_i hcode
    cases byte_eq_of_toNat hcode
    cases h
  · exact ⟨_, fun _ => setTimeRule, isCommand_authority setTimeRule_keeps⟩
  · exact ⟨_, setCalendarSlotsRule, isCommand_authority (setCalendarSlotsRule_keeps _)⟩
  · exact ⟨_, setClassRule, isCommand_authority (setClassRule_keeps _)⟩
  · exact ⟨_, setDayRulesRule, isCommand_authority (setDayRulesRule_keeps _)⟩
  · exact ⟨_, addRestDayRule, isCommand_authority (addRestDayRule_keeps _)⟩
  · exact ⟨_, dropRestDayRule, isCommand_authority (dropRestDayRule_keeps _)⟩
  · exact ⟨_, fun _ => channelOnRule, isCommand_authority channelOnRule_keeps⟩
  · exact ⟨_, fun _ => channelOffRule, isCommand_authority channelOffRule_keeps⟩
  · exact ⟨_, setActivityLinesRule, isCommand_authority (setActivityLinesRule_keeps _)⟩
  · exact ⟨_, setBackgroundRule, isCommand_authority (setBackgroundRule_keeps _)⟩
  · exact ⟨_, setEventRule, isCommand_authority (setEventRule_keeps _)⟩
  · exact ⟨_, setGapRule, isCommand_authority (setGapRule_keeps _)⟩
  · exact ⟨_, lockRoutingRule, isCommand_authority (lockRoutingRule_keeps _)⟩
  · exact ⟨_, fun _ => cutRule, isCommand_authority cutRule_keeps⟩
  · exact ⟨_, fun _ => restartRule, isCommand_authority fun _ _ => rfl⟩
  · exact ⟨_, clearCountersRule, isCommand_authority (clearCountersRule_keeps _)⟩
  · exact ⟨_, fun _ => fetchRule, isCommand_authority (fetchRule_keeps _)⟩
  · exact ⟨_, fun _ => releaseRule, isCommand_authority (releaseRule_keeps _)⟩
  · exact ⟨_, setWarnFractionRule, isCommand_site setWarnFractionRule_keeps⟩
  · exact ⟨_, fun _ => activityPulseRule, isCommand_site activityPulseRule_keeps⟩
  · exact ⟨_, fun _ => peekRule, isCommand_site peekRule_keeps⟩
  · exact ⟨_, fun _ => advanceRule, isCommand_site advanceRule_keeps⟩
  · exact ⟨_, setRouteRule, isCommand_both setRouteRule_keeps⟩
  · exact ⟨_, setEdgesRule, isCommand_both setEdgesRule_keeps⟩
  · exact ⟨_, clearEdgesRule, isCommand_both clearEdgesRule_keeps⟩
  · exact ⟨_, readEdgesRule, isCommand_both readEdgesRule_keeps⟩
  · exact ⟨_, setAttentionRule, isCommand_both setAttentionRule_keeps⟩
  · exact ⟨_, latchRule, isCommand_both latchRule_keeps⟩
  · exact ⟨_, readSnapshotRule, isCommand_both readSnapshotRule_keeps⟩
  · exact ⟨_, readDeviceStatusRule, isCommand_both readDeviceStatusRule_keeps⟩
  · exact ⟨_, fun _ => readChannelStatusRule, isCommand_both readChannelStatusRule_keeps⟩
  · exact ⟨_, fun _ => readConfigRule, isCommand_both readConfigRule_keeps⟩

/-! ### The frame checks (R173, R180, R198) -/

/-- The frame checks in their order, by the frame's length, the port and the argument length. -/
theorem checkFrame_eq (k : CommandInfo) (p : Port) (rest : List Byte) :
    checkFrame k p rest =
      if frameFits rest = false then .refuse .format
      else if k.permits p = false then .refuse .privilege
      else if k.length.fits (rest.length - 1) = false then .refuse .format
      else .ok rest.tail := by
  cases rest with
  | nil => rfl
  | cons len args =>
    have hfits : (250 < len.toNat ∨ args.length ≠ len.toNat) ↔ frameFits (len :: args) = false := by
      rw [← not_iff_not, Bool.not_eq_false, frameFits, Bool.and_eq_true, decide_eq_true_iff, beq_iff_eq, not_or,
        Nat.not_lt, not_not]
    simp only [checkFrame, hfits]
    rfl

theorem IsCommand.checkedAnswer_keeps {code : Byte} {command : Port → List Byte → Instr} {k : CommandInfo}
    {rule : Port → List Byte → State → Answer} (h : IsCommand code command k rule) (p : Port) (rest : List Byte)
    (u : State) : (checkedAnswer k p rest (rule p) u).Keeps p u := by
  unfold checkedAnswer
  split
  case h_1 => exact Answer.keeps_refuse
  case h_2 args hok =>
    refine h.keeps p args u ?_
    by_contra hforbidden
    rw [checkFrame_eq] at hok
    simp only [Bool.not_eq_true] at hforbidden
    rw [if_pos hforbidden] at hok
    split at hok <;> cases hok

/-- A frame that its checks refuse changes nothing but its port (R173, R178). -/
theorem portCommand_refused {k : CommandInfo} {p : Port} {rest : List Byte} {rule : List Byte → State → Answer}
    {s : State} {status : Status} (h : s.takes p = true) (hcheck : checkFrame k p rest = .refuse status) :
    portCommand k p rest rule s = .next (s.refusedWith p status) := by
  rw [portCommand, takeCommand_takes h, checkedAnswer, hcheck, opened_takeAnswer_refuse]

theorem exec_unknownCommand {code : Byte} (hcode : code ≠ 0) (h : commandOf code = none) (p : Port) (rest : List Byte)
    (s : State) :
    exec (.unknownCommand p code rest) s = .next (takeCommand p (fun u => refuse u .unknown) s) :=
  if_neg (by rw [namesCommand, h]; exact not_or.2 ⟨hcode, Bool.false_ne_true⟩)

theorem namesCommand_eq_true {code : Byte} : namesCommand code = true ↔ ∃ command, commandOf code = some command :=
  Option.isSome_iff_exists

theorem namesCommand_eq_false {code : Byte} : namesCommand code = false ↔ commandOf code = none :=
  Option.isSome_eq_false_iff.trans Option.isNone_iff_eq_none

/-- A frame of a code that names a command is refused by the first check that it fails: a check knows of the command its
privileges and lengths alone. -/
theorem exec_decodeTransaction_refused {code : Byte} {p : Port} {rest : List Byte} {s : State} {status : Status}
    (hcode : code ≠ 0) (hnames : namesCommand code = true) (htakes : s.takes p = true)
    (hcheck : ∀ k : CommandInfo, (∀ q, k.permits q = permittedTo q code) →
      (∀ n, k.length.fits n = acceptsLength code n) → checkFrame k p rest = .refuse status) :
    exec (decodeTransaction p (code :: rest)) s = .next (s.refusedWith p status) := by
  obtain ⟨command, hcommand⟩ := namesCommand_eq_true.1 hnames
  obtain ⟨k, rule, hrow⟩ := exists_isCommand hcommand
  rw [decodeTransaction_command hcode hcommand, hrow.exec_eq]
  exact portCommand_refused htakes (hcheck k hrow.permits_eq hrow.fits_eq)

/-- Settles O6: UNKNOWN by the table of codes, and each other refusal by the first check that the frame fails. -/
theorem frameChecksStandInOrder : Obligations.FrameChecksStandInOrder := by
  intro p code rest s hcode htakes
  refine ⟨fun hunknown => ?_,
    fun hnames hframe => exec_decodeTransaction_refused hcode hnames htakes fun k _ _ => ?_,
    fun hnames hframe hprivilege => exec_decodeTransaction_refused hcode hnames htakes fun k hpermits _ => ?_,
    fun hnames hframe hprivilege haccepts =>
      exec_decodeTransaction_refused hcode hnames htakes fun k hpermits hfits => ?_⟩
  · have hnone := namesCommand_eq_false.1 hunknown
    rw [decodeTransaction_unknown hcode hnone, exec_unknownCommand hcode hnone, takeCommand_takes htakes,
      opened_takeAnswer_refuse]
  · rw [checkFrame_eq, if_pos hframe]
  · rw [checkFrame_eq, if_neg (by simp [hframe]), if_pos ((hpermits p).trans hprivilege)]
  · rw [checkFrame_eq, if_neg (by simp [hframe]), if_neg (by simp [hpermits, hprivilege]),
      if_pos ((hfits _).trans haccepts)]

/-! ### Transactions of a port (R172, R173) -/

/-- A command transaction is the taking of some answer that keeps what an answer keeps. -/
theorem exec_commandTransaction {i : Instr} {p : Port} {code : Byte} {rest : List Byte} (hwf : i.wellFormed = true)
    (hbytes : transactionBytes i = some (p, code :: rest)) (hcode : code ≠ 0) :
    ∃ answer, (∀ s, exec i s = .next (takeCommand p answer s)) ∧ ∀ u, (answer u).Keeps p u := by
  rw [← transactionsReadBack.1 i p _ hwf hbytes]
  cases hcommand : commandOf code with
  | none =>
    rw [decodeTransaction_unknown hcode hcommand]
    exact ⟨_, exec_unknownCommand hcode hcommand p rest, fun u => Answer.keeps_refuse⟩
  | some command =>
    obtain ⟨k, rule, hrow⟩ := exists_isCommand hcommand
    rw [decodeTransaction_command hcode hcommand]
    exact ⟨_, hrow.exec_eq p rest, hrow.checkedAnswer_keeps p rest⟩

/-- A transaction is one with no whole byte, one that reads the response, or one of a command. -/
theorem transaction_cases {i : Instr} {p : Port} {bytes : List Byte} (hwf : i.wellFormed = true)
    (hbytes : transactionBytes i = some (p, bytes)) :
    (bytes = [] ∧ i = .ignoredTransaction p) ∨ (∃ rest, bytes = 0 :: rest ∧ i = .readResponse p rest) ∨
      ∃ code rest, bytes = code :: rest ∧ code ≠ 0 := by
  have hi := transactionsReadBack.1 i p bytes hwf hbytes
  match bytes with
  | [] => exact .inl ⟨rfl, hi.symm⟩
  | code :: rest =>
    by_cases hcode : code = 0
    · cases hcode
      exact .inr (.inl ⟨rest, rfl, hi.symm⟩)
    · exact .inr (.inr ⟨code, rest, rfl, hcode⟩)

theorem State.ignores_eq_true {s : State} {p : Port} :
    s.ignores p = true ↔ s.nrstLow = true ∨ ∃ x, (s.port p).transaction = some x ∧ x.spoiled = true := by
  unfold State.ignores
  cases (s.port p).transaction with
  | none => simp
  | some x => simp

/-- Settles O4: a transaction with a whole byte asks first whether its port ignores it. -/
theorem ignoredTransactionsChangeNothing : Obligations.IgnoredTransactionsChangeNothing := by
  intro i p bytes s hwf hbytes hignored
  have hignores : bytes ≠ [] → s.ignores p = true := fun hne => State.ignores_eq_true.2 (hignored.resolve_left hne)
  rcases transaction_cases hwf hbytes with ⟨-, rfl⟩ | ⟨rest, rfl, rfl⟩ | ⟨code, rest, rfl, hcode⟩
  · rfl
  · exact congrArg _ (if_pos (hignores (List.cons_ne_nil _ _)))
  · obtain ⟨answer, hexec, -⟩ := exec_commandTransaction hwf hbytes hcode
    rw [hexec, takeCommand_ignored (hignores (List.cons_ne_nil _ _)), State.dropTransaction]

/-- Settles O5: in BUSY the taking of a command transaction does not ask for its answer. -/
theorem busyPortDiscardsEveryCommand : Obligations.BusyPortDiscardsEveryCommand := by
  intro i p code rest s waiting hwf hbytes hcode htaken hbusy
  obtain ⟨answer, hexec, -⟩ := exec_commandTransaction hwf hbytes hcode
  rw [hexec, takeCommand_busy htaken hbusy]

end Sys2Proof.Machine
end

section
/-! PROOFS. What every step does to the ports and to the queue: the legal states of a port. -/

namespace Sys2Proof.Machine

/-! ### Legal states of a port (R174, R175, R178, R179) -/

/-- Port `p` is in a legal state: COLLIDED is set only in BUSY, BUSY is the authority's alone, and a response held
carries at most 250 bytes. -/
def PortState.Legal (p : Port) (q : PortState) : Prop :=
  (q.collided = true → ∃ t, q.command = .busy t) ∧ (∀ t, q.command = .busy t → p = .authority) ∧ q.command.Fits

theorem portsLegal_iff {s : State} :
    (∀ p, (s.port p).Legal p) ↔ s.PortsOk ∧ s.site.command.Fits ∧ s.authority.command.Fits := by
  constructor
  · intro h
    obtain ⟨hsiteCollided, hsiteBusy, hsiteFits⟩ := h .site
    obtain ⟨hcollided, -, hfits⟩ := h .authority
    have hidle : ∀ t, s.site.command ≠ .busy t := fun t ht => Port.noConfusion (hsiteBusy t ht)
    refine ⟨⟨hidle, Bool.eq_false_of_not_eq_true fun hset => ?_, hcollided⟩, hsiteFits, hfits⟩
    obtain ⟨t, ht⟩ := hsiteCollided hset
    exact hidle t ht
  · rintro ⟨⟨hidle, hclear, hcollided⟩, hsiteFits, hfits⟩ p
    cases p with
    | site => exact ⟨fun hset => absurd (hclear.symm.trans hset) Bool.false_ne_true,
        fun t ht => absurd ht (hidle t), hsiteFits⟩
    | authority => exact ⟨hcollided, fun _ _ => rfl, hfits⟩

section
variable {p : Port} {q q' : PortState}

/-- A legal port that is not BUSY has COLLIDED clear. -/
theorem PortState.Legal.collided_eq_false (h : q.Legal p) (hbusy : ∀ t, q.command ≠ .busy t) : q.collided = false :=
  Bool.eq_false_of_not_eq_true fun hset => (h.1 hset).elim hbusy

theorem PortState.legal_of_clear (hclear : q.collided = false) (hbusy : ∀ t, q.command ≠ .busy t)
    (hfits : q.command.Fits) : q.Legal p :=
  ⟨fun hset => absurd (hclear.symm.trans hset) Bool.false_ne_true, fun t ht => absurd ht (hbusy t), hfits⟩

theorem PortState.legal_of_busy {t : Timed} (hp : p = .authority) (h : q.command = .busy t) : q.Legal p :=
  ⟨fun _ => ⟨t, h⟩, fun _ _ => hp, h ▸ trivial⟩

theorem PortState.Legal.congr (h : q.Legal p) (hcommand : q'.command = q.command)
    (hcollided : q'.collided = q.collided) : q'.Legal p := by
  unfold PortState.Legal
  rw [hcommand, hcollided]
  exact h

end

/-! ### Transactions -/

/-- A change of one port leaves the queue and the other port. -/
theorem State.mapPort_frame (s : State) (p : Port) (f : PortState → PortState) :
    (s.mapPort p f).pending = s.pending ∧ (s.mapPort p f).port (otherPort p) = s.port (otherPort p) :=
  ⟨s.mapPort_pending p f, s.mapPort_port_other p f⟩

section
variable {p : Port} {answer : State → Answer}

theorem takeAnswer_frame {u : State} {a : Answer} (h : a.Keeps p u) :
    (u.takeAnswer p a).pending = u.pending ∧ (u.takeAnswer p a).port (otherPort p) = u.port (otherPort p) := by
  cases a with
  | wait t => exact State.mapPort_frame _ _ _
  | complete t status data =>
    obtain ⟨hpending, hother, -, -⟩ := h
    exact ⟨(State.mapPort_pending _ _ _).trans hpending, (State.mapPort_port_other _ _ _).trans hother⟩

/-- A taken answer leaves its port DONE with a response that fits, or the authority BUSY (R174, R178, R179). -/
theorem takeAnswer_legal {u : State} {a : Answer} (h : a.Keeps p u) (hclear : (u.port p).collided = false) :
    ((u.takeAnswer p a).port p).Legal p := by
  cases a with
  | wait t =>
    rw [State.takeAnswer, State.mapPort_port]
    exact PortState.legal_of_busy h rfl
  | complete t status data =>
    obtain ⟨-, -, hcollided, hlen⟩ := h
    rw [State.takeAnswer, State.mapPort_port]
    exact PortState.legal_of_clear (hcollided.trans hclear) (fun _ => CommandState.noConfusion) hlen

theorem takeCommand_frame (h : ∀ u, (answer u).Keeps p u) (s : State) :
    (takeCommand p answer s).pending = s.pending ∧
      (takeCommand p answer s).port (otherPort p) = s.port (otherPort p) := by
  rcases takeCommand_cases p answer s with ⟨-, hs⟩ | ⟨t, -, -, hs⟩ | ⟨-, hs⟩ <;> rw [hs]
  · exact State.mapPort_frame _ _ _
  · exact State.mapPort_frame _ _ _
  · obtain ⟨hpending, hother⟩ := takeAnswer_frame (h (s.opened p))
    exact ⟨hpending.trans (s.opened_pending p), hother.trans (State.mapPort_port_other _ _ _)⟩

theorem takeCommand_legal (h : ∀ u, (answer u).Keeps p u) {s : State} (hs : (s.port p).Legal p) :
    ((takeCommand p answer s).port p).Legal p := by
  rcases takeCommand_cases p answer s with ⟨-, htaken⟩ | ⟨t, -, hbusy, htaken⟩ | ⟨htakes, htaken⟩ <;> rw [htaken]
  · rw [State.dropTransaction, State.mapPort_port]
    exact hs.congr rfl rfl
  · rw [State.mapPort_port]
    exact PortState.legal_of_busy (hs.2.1 t hbusy) hbusy
  · refine takeAnswer_legal (h _) ?_
    rw [State.opened_port]
    exact hs.collided_eq_false (State.takes_iff.1 htakes).2

end

theorem readResponse_frame (p : Port) (rest : List Byte) (s : State) :
    (readResponse p rest s).pending = s.pending ∧
      (readResponse p rest s).port (otherPort p) = s.port (otherPort p) := by
  unfold readResponse
  split
  · exact State.mapPort_frame _ _ _
  · exact ⟨(State.mapPort_pending _ _ _).trans (State.mapPort_pending _ _ _),
      (State.mapPort_port_other _ _ _).trans (State.mapPort_port_other _ _ _)⟩

/-- A read-response transaction leaves a legal port as it is, but for DONE, which it takes to IDLE (R176). -/
theorem readResponse_legal {p : Port} {s : State} (h : (s.port p).Legal p) (rest : List Byte) :
    ((readResponse p rest s).port p).Legal p := by
  unfold readResponse
  split
  · rw [State.dropTransaction, State.mapPort_port]
    exact h.congr rfl rfl
  · simp only [State.endTransaction, State.mapPort_port]
    cases hcommand : (s.port p).command with
    | done r =>
      exact PortState.legal_of_clear (h.collided_eq_false fun t ht => CommandState.noConfusion (hcommand.symm.trans ht))
        (fun _ => CommandState.noConfusion) trivial
    | idle => exact h.congr hcommand.symm rfl
    | busy t => exact h.congr hcommand.symm rfl

/-- What a transaction on port `p` keeps: the queue, the other port, and its own port's being legal. -/
theorem exec_transaction {i : Instr} {p : Port} {bytes : List Byte} (hwf : i.wellFormed = true)
    (hbytes : transactionBytes i = some (p, bytes)) (s : State) :
    ∃ t, exec i s = .next t ∧ t.pending = s.pending ∧ t.port (otherPort p) = s.port (otherPort p) ∧
      ((s.port p).Legal p → (t.port p).Legal p) := by
  rcases transaction_cases hwf hbytes with ⟨-, rfl⟩ | ⟨rest, -, rfl⟩ | ⟨code, rest, rfl, hcode⟩
  · refine ⟨_, rfl, State.mapPort_pending _ _ _, State.mapPort_port_other _ _ _, fun h => ?_⟩
    rw [State.dropTransaction, State.mapPort_port]
    exact h.congr rfl rfl
  · obtain ⟨hpending, hother⟩ := readResponse_frame p rest s
    exact ⟨_, rfl, hpending, hother, fun h => readResponse_legal h rest⟩
  · obtain ⟨answer, hexec, hkeeps⟩ := exec_commandTransaction hwf hbytes hcode
    obtain ⟨hpending, hother⟩ := takeCommand_frame hkeeps s
    exact ⟨_, hexec s, hpending, hother, takeCommand_legal hkeeps⟩

/-! ### Every other step -/

theorem eq_or_eq_otherPort (p q : Port) : q = p ∨ q = otherPort p := by
  cases p <;> cases q <;> simp [otherPort]

/-- All that a step that is no transaction can do to a port's command state: leave it with COLLIDED, reset it, or
complete the pending command, COLLIDED copied into the response (R175, R179, R183). -/
def PortState.MovesTo (q q' : PortState) : Prop :=
  (q'.command = q.command ∧ q'.collided = q.collided) ∨ (q'.command = .idle ∧ q'.collided = false) ∨
    ∃ data, data.length ≤ 250 ∧ q'.command = .done ⟨.ok, q.collided, data⟩ ∧ q'.collided = false

theorem PortState.Legal.of_movesTo {p : Port} {q q' : PortState} (h : q.Legal p) (hmove : q.MovesTo q') :
    q'.Legal p := by
  rcases hmove with ⟨hcommand, hcollided⟩ | ⟨hidle, hclear⟩ | ⟨data, hlen, hdone, hclear⟩
  · exact h.congr hcommand hcollided
  · exact PortState.legal_of_clear hclear (by simp [hidle]) (hidle ▸ trivial)
  · exact PortState.legal_of_clear hclear (by simp [hdone]) (hdone ▸ hlen)

/-- The queue stays, and each port moves as above. -/
def State.MovesTo (s t : State) : Prop := t.pending = s.pending ∧ ∀ p, (s.port p).MovesTo (t.port p)

section
variable {s t : State}

theorem State.movesTo_of_kept (hpending : t.pending = s.pending) (hsite : t.site.command = s.site.command)
    (hsiteCollided : t.site.collided = s.site.collided) (hauthority : t.authority.command = s.authority.command)
    (hcollided : t.authority.collided = s.authority.collided) : s.MovesTo t :=
  ⟨hpending, fun p => .inl (by cases p <;> constructor <;> assumption)⟩

theorem State.movesTo_of_ports (hpending : t.pending = s.pending) (hsite : t.site = s.site)
    (hauthority : t.authority = s.authority) : s.MovesTo t :=
  State.movesTo_of_kept hpending (congrArg _ hsite) (congrArg _ hsite) (congrArg _ hauthority) (congrArg _ hauthority)

theorem State.movesTo_refl (s : State) : s.MovesTo s := State.movesTo_of_ports rfl rfl rfl

theorem State.movesTo_of_reset (hpending : t.pending = s.pending)
    (hsite : t.site.command = .idle ∧ t.site.collided = false)
    (hauthority : t.authority.command = .idle ∧ t.authority.collided = false) : s.MovesTo t :=
  ⟨hpending, fun p => .inr (.inl (by cases p <;> assumption))⟩

end

theorem length_timedData_le (s : State) (t : Timed) : (timedData s t).length ≤ 250 := by
  cases t <;> simp [timedData]

theorem boundaryWork_movesTo (s : State) : s.MovesTo (boundaryWork s) := by
  refine ⟨boundaryWork_pending s, fun p => ?_⟩
  cases p with
  | site =>
    rw [State.port_site, State.port_site, boundaryWork_site]
    split
    · exact .inl ⟨rfl, rfl⟩
    · exact .inl ⟨rfl, rfl⟩
  | authority =>
    rw [State.port_authority, State.port_authority, boundaryWork_authority]
    split
    · exact .inl ⟨rfl, rfl⟩
    · exact .inr (.inr ⟨_, length_timedData_le s .restart, rfl, rfl⟩)
    · exact .inr (.inr ⟨_, length_timedData_le s _, rfl, rfl⟩)

theorem boundary_movesTo (heard : List Byte) (s : State) : s.MovesTo (boundaryWork (frameAtBoundary heard s)) := by
  obtain ⟨hpending, hports⟩ := boundaryWork_movesTo (frameAtBoundary heard s)
  refine ⟨hpending.trans (frameAtBoundary_pending heard s), fun p => ?_⟩
  have hport : (frameAtBoundary heard s).port p = s.port p := by cases p <;> simp
  exact hport ▸ hports p

theorem reachBoundary_movesTo (heard : List Byte) (s : State) : s.MovesTo (reachBoundary heard s) := by
  rcases reachBoundary_cases heard s with ⟨-, h⟩ | ⟨-, h⟩ <;> rw [h]
  · exact s.movesTo_refl
  · exact boundary_movesTo heard s

theorem reachBoundaryIf_movesTo (occurs : State → Bool) (heard : List Byte) (s : State) :
    s.MovesTo (reachBoundaryIf occurs heard s) := by
  rcases reachBoundaryIf_cases occurs heard s with h | ⟨-, h⟩ <;> rw [h]
  · exact s.movesTo_refl
  · exact boundary_movesTo heard s

theorem rise_movesTo (l : Line) (short : Bool) (s : State) : s.MovesTo (rise l short s) := by
  cases short with
  | false =>
    change s.MovesTo (seenRise l s)
    rw [seenRise_eq]
    exact State.movesTo_of_kept rfl rfl rfl rfl rfl
  | true =>
    rcases rise_short l s with h | h <;> rw [h]
    · rw [seenRise_eq]
      exact State.movesTo_of_kept rfl rfl rfl rfl rfl
    · exact State.movesTo_of_ports rfl rfl rfl

theorem takeFall_movesTo (l : Line) (s : State) : s.MovesTo (s.takeFall l) := by
  rw [State.takeFall_eq]
  exact State.movesTo_of_kept rfl rfl rfl rfl rfl

/-- The fall of chip-select changes of its port the transaction alone (R172). -/
theorem chipSelectFall_movesTo (p : Port) (s : State) : s.MovesTo (chipSelectFall p s) := by
  refine ⟨State.mapPort_pending _ _ _, fun q => .inl ?_⟩
  rcases eq_or_eq_otherPort p q with rfl | rfl
  · rw [chipSelectFall, State.mapPort_port]
    split <;> exact ⟨rfl, rfl⟩
  · rw [chipSelectFall, State.mapPort_port_other]
    exact ⟨rfl, rfl⟩

/-- A step that is no transaction has a next state, with the queue kept. -/
theorem exec_movesTo {i : Instr} (h : transactionBytes i = none) (s : State) :
    ∃ t, exec i s = .next t ∧ s.MovesTo t := by
  cases i
  case powerOn => exact ⟨_, rfl, State.movesTo_of_reset rfl ⟨rfl, rfl⟩ ⟨rfl, rfl⟩⟩
  case sliceClockStart => exact ⟨_, rfl, State.movesTo_of_ports rfl rfl rfl⟩
  case nrstLow =>
    refine ⟨_, rfl, ?_⟩
    split
    · exact s.movesTo_refl
    · exact State.movesTo_of_reset rfl ⟨rfl, rfl⟩ ⟨rfl, rfl⟩
  case nrstRelease =>
    refine ⟨_, rfl, ?_⟩
    split
    · exact State.movesTo_of_reset rfl ⟨rfl, rfl⟩ ⟨rfl, rfl⟩
    · exact s.movesTo_refl
  case boundary heard => exact ⟨_, rfl, reachBoundary_movesTo heard s⟩
  case dayRollover heard => exact ⟨_, rfl, reachBoundaryIf_movesTo dayRolls heard s⟩
  case dayWrap heard => exact ⟨_, rfl, reachBoundaryIf_movesTo dayWraps heard s⟩
  case linkAcquired c heard => exact ⟨_, rfl, reachBoundaryIf_movesTo (acquires c) heard s⟩
  case headLoss c heard => exact ⟨_, rfl, reachBoundaryIf_movesTo (losesHead c) heard s⟩
  case eventHoldClose c heard => exact ⟨_, rfl, reachBoundaryIf_movesTo (holdCloses c) heard s⟩
  case eventLongClose c heard => exact ⟨_, rfl, reachBoundaryIf_movesTo (longCloses c) heard s⟩
  case episodePauseClose heard => exact ⟨_, rfl, reachBoundaryIf_movesTo pauseCloses heard s⟩
  case frameReceived heard =>
    refine ⟨_, rfl, ?_⟩
    split
    · exact s.movesTo_refl
    · exact State.movesTo_of_ports (endFrame_pending heard s) (endFrame_site heard s) (endFrame_authority heard s)
  case actRise l short =>
    refine ⟨_, rfl, ?_⟩
    split
    · exact s.movesTo_refl
    · split
      · exact State.movesTo_of_ports rfl rfl rfl
      · exact rise_movesTo l short s
  case actFall l =>
    refine ⟨_, rfl, ?_⟩
    split
    · exact s.movesTo_refl
    · dsimp only
      split
      · exact State.movesTo_of_ports rfl rfl rfl
      · exact takeFall_movesTo l { s with activity := s.activity.lineDown l }
  case endOfSync => exact ⟨_, rfl, State.movesTo_of_ports rfl rfl rfl⟩
  case chipSelectFall p => exact ⟨_, rfl, chipSelectFall_movesTo p s⟩
  all_goals cases h

theorem wellFormed_eq_false {i : Instr} (h : i.wellFormed = false) :
    ∃ p code rest, i = .unknownCommand p code rest ∧ (code = 0 ∨ namesCommand code = true) := by
  cases i
  case unknownCommand p code rest =>
    refine ⟨p, code, rest, rfl, ?_⟩
    rw [Instr.wellFormed, Bool.and_eq_false_iff, bne_eq_false_iff_eq, Bool.not_eq_false'] at h
    exact h
  all_goals cases h

/-- An ill-formed term is the one that UNKNOWN_COMMAND refuses (log entry 9). -/
theorem exec_of_illFormed {i : Instr} (h : i.wellFormed = false) (s : State) :
    exec i s = .refused .codeNamesACommand := by
  obtain ⟨p, code, rest, rfl, hcode⟩ := wellFormed_eq_false h
  exact if_pos hcode

/-- Settles O2: a transaction and every other step have a next state, and only an ill-formed term is refused. -/
theorem everyWellFormedCommandRuns : Obligations.EveryWellFormedCommandRuns := by
  refine fun i s => ⟨fun hwf => ?_, fun hill => exec_of_illFormed hill s⟩
  cases hbytes : transactionBytes i with
  | none =>
    obtain ⟨t, hexec, hpending, -⟩ := exec_movesTo hbytes s
    exact ⟨t, hexec, hpending⟩
  | some transaction =>
    obtain ⟨t, hexec, hpending, -⟩ := exec_transaction hwf hbytes s
    exact ⟨t, hexec, hpending⟩

theorem wellFormed_of_next {i : Instr} {s t : State} (h : exec i s = .next t) : i.wellFormed = true := by
  by_contra hill
  rw [exec_of_illFormed (Bool.eq_false_of_not_eq_true hill)] at h
  cases h

/-- Every command keeps both ports legal: a transaction its own port, leaving the other; any other step both. -/
theorem exec_legal {i : Instr} {s t : State} (h : ∀ p, (s.port p).Legal p) (ht : exec i s = .next t) (p : Port) :
    (t.port p).Legal p := by
  cases hbytes : transactionBytes i with
  | none =>
    obtain ⟨t', hexec, -, hmove⟩ := exec_movesTo hbytes s
    cases hexec.symm.trans ht
    exact (h p).of_movesTo (hmove p)
  | some transaction =>
    obtain ⟨own, bytes⟩ := transaction
    obtain ⟨t', hexec, -, hother, hown⟩ := exec_transaction (wellFormed_of_next ht) hbytes s
    cases hexec.symm.trans ht
    rcases eq_or_eq_otherPort own p with rfl | rfl
    · exact hown (h p)
    · rw [hother]
      exact h _

/-- Settles O11: an idling step leaves the state, and every command keeps each port legal. -/
theorem portStatesStayLegal : Obligations.PortStatesStayLegal := by
  intro s t hok hsite hauthority hstep
  rw [← portsLegal_iff]
  have hlegal := portsLegal_iff.2 ⟨hok, hsite, hauthority⟩
  rcases step_cases hstep with ⟨-, rfl⟩ | ⟨i, rest, -, hexec⟩
  · exact hlegal
  · have hrest : ∀ p, (State.port { s with pending := rest } p).Legal p
      | .site => hlegal .site
      | .authority => hlegal .authority
    exact exec_legal hrest hexec

end Sys2Proof.Machine
end

section
/-! PROOFS. The response, the state byte, and the attention line of a port. -/

namespace Sys2Proof.Machine

/-! ### READ_RESPONSE (R176) -/

/-- A read-response transaction that is taken clocks out the held response and consumes that of DONE (R176, R197). -/
theorem exec_readResponse {s : State} {p : Port} (h : s.ignores p = false) (rest : List Byte) :
    exec (.readResponse p rest) s =
      .next (s.mapPort p fun q =>
        { q with
          transaction := none
          clockedOut := (s.firstByte p :: (heldResponse (s.port p).command).bytes).take (1 + rest.length)
          command := afterRead q.command }) := by
  have htaken : ¬s.ignores p = true := by simp [h]
  simp only [exec, execReadResponse, readResponse, if_neg htaken, State.endTransaction, State.mapPort_mapPort]

theorem heldResponse_of_not_done {c : CommandState} (h : ∀ r, c ≠ .done r) : heldResponse c = nothingResponse := by
  cases c with
  | done r => exact absurd rfl (h r)
  | idle => rfl
  | busy t => rfl

theorem afterRead_of_not_done {c : CommandState} (h : ∀ r, c ≠ .done r) : afterRead c = c := by
  cases c with
  | done r => exact absurd rfl (h r)
  | idle => rfl
  | busy t => rfl

/-- A change of a port is that of any function which agrees with it on the port's state. -/
theorem State.mapPort_congr {s : State} {p : Port} {f g : PortState → PortState} (h : f (s.port p) = g (s.port p)) :
    s.mapPort p f = s.mapPort p g := by
  cases p with
  | site => exact congrArg (fun q => { s with site := q }) h
  | authority => exact congrArg (fun q => { s with authority := q }) h

/-- Settles O7, by whether the port holds a response. -/
theorem readResponseReturnsTheHeldResponse : Obligations.ReadResponseReturnsTheHeldResponse := by
  refine fun p rest s htaken => ⟨fun r hdone => ?_, fun hnone => ?_⟩
  · rw [exec_readResponse htaken, hdone]
    exact congrArg _ (State.mapPort_congr (by rw [hdone]; rfl))
  · rw [exec_readResponse htaken, heldResponse_of_not_done hnone]
    exact congrArg _ (State.mapPort_congr (by rw [afterRead_of_not_done hnone]; rfl))

/-! ### CHIP_SELECT_FALL and the state byte (R172, R177, R197) -/

section
variable {s : State} {p : Port}

theorem exec_chipSelectFall_none (h : (s.port p).transaction = none) :
    exec (.chipSelectFall p) s = .next (s.mapPort p fun q => { q with transaction := some ⟨s.stateByte p, false⟩ }) :=
  congrArg _ (State.mapPort_congr (by rw [h]))

theorem exec_chipSelectFall_some {x : Transaction} (h : (s.port p).transaction = some x) :
    exec (.chipSelectFall p) s = .next s := by
  have hsame : chipSelectFall p s = s.mapPort p fun q => q := State.mapPort_congr (by rw [h])
  rw [exec, execChipSelectFall, hsame, State.mapPort_id]

theorem State.firstByte_of_none (h : (s.port p).transaction = none) : s.firstByte p = s.stateByte p := by
  rw [State.firstByte, h]

theorem State.firstByte_of_some {x : Transaction} (h : (s.port p).transaction = some x) :
    s.firstByte p = x.stateByte := by
  rw [State.firstByte, h]

end

/-- The state byte of a command state under a level of ATTN (R197). -/
theorem stateByte_bits (c : CommandState) (attn : Bool) :
    (BitVec.ofNat 8 (c.code + 128 * boolCode attn)).extractLsb' 0 2 = BitVec.ofNat 2 c.code ∧
      (BitVec.ofNat 8 (c.code + 128 * boolCode attn)).extractLsb' 2 5 = 0#5 ∧
      (BitVec.ofNat 8 (c.code + 128 * boolCode attn)).getLsbD 7 = attn := by
  have hbyte : ∀ code < 3, ∀ attn : Bool,
      (BitVec.ofNat 8 (code + 128 * boolCode attn)).extractLsb' 0 2 = BitVec.ofNat 2 code ∧
        (BitVec.ofNat 8 (code + 128 * boolCode attn)).extractLsb' 2 5 = 0#5 ∧
        (BitVec.ofNat 8 (code + 128 * boolCode attn)).getLsbD 7 = attn := by decide
  have hcode : c.code < 3 := by cases c <;> simp [CommandState.code]
  exact hbyte c.code hcode attn

theorem State.ready_iff (s : State) (p : Port) :
    s.ready p = true ↔ s.nrstLow = false ∧ ∃ r, (s.port p).command = .done r := by
  unfold State.ready
  cases (s.port p).command <;> simp

theorem State.attn_of_nrstLow {s : State} (h : s.nrstLow = true) (p : Port) : s.attn p = false := by
  simp [State.attn, h]

/-- Settles O8: the fall by whether a transaction is in progress, the state byte bit by bit, and the two lines. -/
theorem chipSelectFallFixesTheStateByte : Obligations.ChipSelectFallFixesTheStateByte := by
  intro p s
  obtain ⟨hcode, hzero, hattn⟩ := stateByte_bits (s.port p).command (s.attn p)
  refine ⟨fun hnone => ⟨exec_chipSelectFall_none hnone, State.firstByte_of_none hnone⟩,
    fun x hsome => ⟨exec_chipSelectFall_some hsome, State.firstByte_of_some hsome⟩, fun t hnone hfall => ?_,
    hcode.trans ?_, hzero, hattn, s.ready_iff p, fun hlow => State.attn_of_nrstLow hlow p⟩
  · cases (exec_chipSelectFall_none hnone).symm.trans hfall
    rw [State.firstByte, State.mapPort_port]
  · cases (s.port p).command <;> rfl

/-! ### Attention (R191, R192) -/

/-- The attention conditions of a port, condition by condition in the order of their bits (R192, R198). -/
def conditionFlags (s : State) : Port → List Bool
  | .authority =>
    [decide (0 < s.log.held), s.log.openLoss.isSome, s.headLost, s.activity.episode.isSome,
      decide (s.authority.edges ≠ 0), s.exhaustAny]
  | .site =>
    [decide (0 < s.log.lag), s.warnAny, s.exhaustAny, decide (s.site.edges ≠ 0), s.eventAny, s.headLost]

theorem conditions_eq (s : State) (p : Port) : s.conditions p = BitVec.ofNat 8 (flagWord (conditionFlags s p)) := by
  cases p <;> simp only [State.conditions, conditionFlags, flagWord] <;> congr 1 <;> omega

theorem member_conditions (s : State) (p : Port) (i : Fin 8) :
    member (s.conditions p) i = (conditionFlags s p).getD i.val false := by
  rw [conditions_eq, member, BitVec.getLsbD_ofNat, testBit_flagWord, decide_eq_true i.isLt, Bool.true_and]

theorem attn_iff {s : State} (h : s.nrstLow = false) (p : Port) :
    s.attn p = true ↔ ∃ i : Fin 8,
      member (s.port p).attention i = true ∧ (conditionFlags s p).getD i.val false = true := by
  simp only [State.attn, h, Bool.not_false, Bool.true_and, decide_eq_true_iff, ne_zero_iff_exists_member, member_and,
    member_conditions, Bool.and_eq_true]

theorem exists_fin8 (P : Fin 8 → Prop) : (∃ i, P i) ↔ P 0 ∨ P 1 ∨ P 2 ∨ P 3 ∨ P 4 ∨ P 5 ∨ P 6 ∨ P 7 := by
  simp [Fin.exists_fin_succ]

/-- The conditions are bits 0 to 5 of a mask (R192). -/
theorem mask_outside_iff (mask : Byte) : mask &&& ~~~conditionBits ≠ 0 ↔ 64 ≤ mask.toNat := by
  revert mask
  decide

theorem setAttentionRule_range {p : Port} {mask : Byte} (h : 64 ≤ mask.toNat) (s : State) :
    setAttentionRule p [mask] s = refuse s .range :=
  if_pos ((mask_outside_iff mask).2 h)

/-- The conditions are none of the issuing port's own controller (R192). -/
theorem conditions_opened (s : State) (p : Port) : (s.opened p).conditions p = s.conditions p := by
  cases p <;> rfl

theorem setAttentionRule_opened {mask : Byte} (h : mask.toNat < 64) (s : State) (p : Port) :
    setAttentionRule p [mask] (s.opened p) =
      .complete ((s.opened p).mapPort p fun q => { q with attention := mask }) .ok [mask, s.conditions p] := by
  rw [← conditions_opened]
  exact if_neg ((mask_outside_iff mask).not.2 (Nat.not_le.2 h))

theorem Log.held_pos_iff (log : Log) : 0 < log.held ↔ log.all ≠ [] := by
  rw [log.held_eq, List.length_pos_iff]

/-- Settles O9: SET_ATTENTION by its rule, and ATTN condition by condition. -/
theorem attentionFollowsTheMask : Obligations.AttentionFollowsTheMask := by
  refine ⟨fun p s mask htakes => ⟨fun hmask => ?_, fun hmask => ?_⟩, fun s hhigh => ⟨?_, ?_⟩⟩
  · exact bothCommand_answered htakes rfl (by decide) (setAttentionRule_opened hmask s p) (by cases p <;> rfl)
  · exact bothCommand_refused htakes rfl (by decide) (setAttentionRule_range hmask _)
  · rw [attn_iff hhigh, exists_fin8]
    simp [conditionFlags, member, Log.held_pos_iff, State.headLost_eq_true, State.exhaustAny_eq_true,
      Option.isSome_iff_ne_none]
  · rw [attn_iff hhigh, exists_fin8]
    simp [conditionFlags, member, State.headLost_eq_true, State.exhaustAny_eq_true, State.warnAny_eq_true,
      State.eventAny_eq_true]

end Sys2Proof.Machine
end

section
/-! PROOFS. Snapshots: captures, LATCH and READ_SNAPSHOT. -/

namespace Sys2Proof.Machine

/-! ### Captures (R185, R186) -/

section
variable {s : State} {c : Channel}

theorem capture_off (h : (s.channel c).link = .off) : s.capture c = offImage s.timebase.time := by
  simp [State.capture, h]

theorem Estimator.level_eq (e : Estimator) (bgMin : Nat) :
    e.level bgMin = if bgMin ≤ e.nq then e.eb.map lconv else none := by
  unfold Estimator.level Estimator.valid
  split <;> rfl

theorem capture_without_interval (hon : (s.channel c).link ≠ .off) (h : (s.channel c).interval = none) :
    s.capture c =
      ⟨s.timebase.time, (s.channel c).link, none, none, none, none, none, none, none,
        if s.settings.bgMin ≤ (s.channel c).background.nq then (s.channel c).background.eb.map lconv else none,
        (s.channel c).background.nq, .clear, none, (s.channel c).event.isSome,
        (s.channel c).event.map Event.duration, (s.channel c).lastResult⟩ := by
  rw [← Estimator.level_eq]
  simp [State.capture, hon, h, ChannelState.allowance]

theorem capture_with_interval (hon : (s.channel c).link ≠ .off) {iv : Interval} (h : (s.channel c).interval = some iv) :
    s.capture c =
      ⟨s.timebase.time, (s.channel c).link, some iv.cls, some iv.openTime, some iv.planned, some iv.elapsed,
        some (iv.measured + iv.concealed), iv.runningLevel, iv.lmaxSoFar,
        if s.settings.bgMin ≤ (s.channel c).background.nq then (s.channel c).background.eb.map lconv else none,
        (s.channel c).background.nq, iv.allowance, some iv.rs, (s.channel c).event.isSome,
        (s.channel c).event.map Event.duration, (s.channel c).lastResult⟩ := by
  rw [← Estimator.level_eq]
  simp [State.capture, hon, h, ChannelState.allowance, Interval.nacc]

end

theorem Interval.runningLevel_eq (iv : Interval) :
    iv.runningLevel =
      if iv.measured + iv.concealed = 0 then none
      else some (lconv (iv.sumTot / (iv.measured + iv.concealed))) :=
  meanLevel_eq iv.sumTot iv.nacc

theorem Interval.runningLevel_eq_none {iv : Interval} :
    iv.runningLevel = none ↔ iv.measured + iv.concealed = 0 := by
  rw [Interval.runningLevel_eq]
  split <;> simp_all

theorem Interval.runningLevel_eq_some {iv : Interval} {r : Nat} (h : iv.runningLevel = some r) :
    r = lconv (iv.sumTot / (iv.measured + iv.concealed)) := by
  rw [Interval.runningLevel_eq] at h
  split at h
  · cases h
  · exact (Option.some.inj h).symm

/-! ### LATCH (R184) -/

theorem get_latchedSlots (s : State) (q : PortState) (mask : BitVec 8) (c : Channel) :
    (latchedSlots s q mask).get c =
      if member mask c = true ∧ q.slots.get c = none then some (s.capture c) else q.slots.get c := by
  simp only [latchedSlots, Oct.get_ofFn, Bool.and_eq_true, Option.isNone_iff_eq_none]

/-- The taking of LATCH leaves the slots and every capture as they stand. -/
theorem latchedSlots_opened (s : State) (p : Port) (mask : BitVec 8) :
    latchedSlots (s.opened p) ((s.opened p).port p) mask = latchedSlots s (s.port p) mask := by
  simp only [latchedSlots, State.opened, State.mapPort_capture, State.mapPort_port]

theorem latchRule_range (s : State) (p : Port) : latchRule p [0#8] s = refuse s .range := by
  rw [latchRule, argByte_zero]
  exact if_pos rfl

theorem latchRule_opened {mask : Byte} (h : mask ≠ 0) (s : State) (p : Port) :
    latchRule p [mask] (s.opened p) =
      .complete ((s.opened p).mapPort p fun q => { q with slots := latchedSlots s (s.port p) mask }) .ok
        [capturedSet (s.port p) mask, passedSet (s.port p) mask] := by
  have hslots : ((s.opened p).mapPort p fun q => { q with slots := latchedSlots (s.opened p) q mask }) =
      (s.opened p).mapPort p fun q => { q with slots := latchedSlots s (s.port p) mask } :=
    State.mapPort_congr (by rw [latchedSlots_opened])
  rw [latchRule, argByte_zero, if_neg h, hslots, State.opened_port]
  rfl

/-! ### READ_SNAPSHOT (R187) -/

theorem readSnapshotRule_range {b : Byte} (h : 8 ≤ b.toNat) (s : State) (p : Port) :
    readSnapshotRule p [b] s = refuse s .range := by
  rw [readSnapshotRule, arg1_zero, finOf_eq_none.2 h]

theorem arg1_channel (c : Channel) : finOf 8 (arg1 (put1 c.val) 0) = some c := by
  rw [arg1_put1 (c.isLt.trans (by decide)), finOf_val]

theorem readSnapshotRule_empty {s : State} {p : Port} {c : Channel} (h : (s.port p).slots.get c = none) :
    readSnapshotRule p (put1 c.val) s = refuse s .empty := by
  simp only [readSnapshotRule, arg1_channel, h]

theorem readSnapshotRule_capture {s : State} {p : Port} {c : Channel} {k : Capture}
    (h : (s.port p).slots.get c = some k) :
    readSnapshotRule p (put1 c.val) s =
      .complete (s.mapPort p fun q => { q with slots := q.slots.set c none }) .ok k.bytes := by
  simp only [readSnapshotRule, arg1_channel, h]

/-- Settles O31: captures by the channel's link and interval, LATCH and READ_SNAPSHOT by their rules. -/
theorem theFirstLatchWins : Obligations.TheFirstLatchWins := by
  refine ⟨fun s c => ⟨capture_off, capture_without_interval, fun hon iv hiv =>
    ⟨iv.runningLevel, capture_with_interval hon hiv, Interval.runningLevel_eq_none,
      fun r => Interval.runningLevel_eq_some⟩⟩, fun p s htakes => ⟨?_, fun mask hmask =>
    ⟨latchedSlots s (s.port p) mask, capturedSet (s.port p) mask, passedSet (s.port p) mask,
      get_latchedSlots s (s.port p) mask, member_setOf _, member_setOf _, ?_⟩, fun b hb => ?_,
    fun c => ⟨fun hempty => ?_, fun k hk => ?_⟩⟩⟩
  · exact bothCommand_refused htakes rfl (by decide) (latchRule_range _ p)
  · exact bothCommand_answered htakes rfl (by decide) (latchRule_opened hmask s p) (by cases p <;> rfl)
  · exact bothCommand_refused htakes rfl (by decide) (readSnapshotRule_range hb _ p)
  · exact bothCommand_refused htakes rfl (by decide) (readSnapshotRule_empty (by rwa [State.opened_port]))
  · exact bothCommand_answered htakes rfl (by decide) (readSnapshotRule_capture (by rwa [State.opened_port]))
      (by cases p <;> rfl)

end Sys2Proof.Machine
end

section
/-! PROOFS. The three status reads. -/

namespace Sys2Proof.Machine

/-! ### The interlock sources as a set of bits (R198) -/

theorem flagWord_snoc (bs : List Bool) (b : Bool) :
    flagWord (bs ++ [b]) = flagWord bs + boolCode b * 2 ^ bs.length := by
  induction bs with
  | nil => simp [flagWord]
  | cons b' bs ih =>
    simp only [List.cons_append, flagWord, ih, List.length_cons, Nat.pow_succ]
    ring

theorem foldl_flags_eq (f : Nat → Bool) (n : Nat) :
    (List.range n).foldl (fun acc k => acc + boolCode (f k) * 2 ^ k) 0 = flagWord ((List.range n).map f) := by
  induction n with
  | zero => rfl
  | succ n ih =>
    rw [List.range_succ, List.foldl_append, ih, List.map_append, List.map_singleton, flagWord_snoc, List.length_map,
      List.length_range]
    rfl

/-- Whether the source of a code is true; no code above 24 names one (R139, R198). -/
def sourceFlag (s : State) (n : Nat) : Bool := ((sourceOf n).map s.source).getD false

theorem sources_eq (s : State) : s.sources = BitVec.ofNat 32 (flagWord ((List.range 25).map (sourceFlag s))) := by
  rw [← foldl_flags_eq, State.sources]
  congr
  funext acc n
  unfold sourceFlag
  cases sourceOf n with
  | none => simp [boolCode]
  | some k => rfl

theorem getLsbD_sources (s : State) (n : Nat) : s.sources.getLsbD n = (decide (n < 25) && sourceFlag s n) := by
  rw [sources_eq, BitVec.getLsbD_ofNat, testBit_flagWord]
  by_cases h : n < 25
  · simp [h, show n < 32 by omega, List.getD_eq_getElem?_getD]
  · simp [h, List.getD_eq_getElem?_getD]

theorem sourceFlag_code (s : State) (k : Source) : sourceFlag s k.code = s.source k := by
  rw [sourceFlag, sourceOf_code]
  rfl

theorem Source.code_lt (k : Source) : k.code < 25 := by
  by_contra h
  have hnone := sourceOf_eq_none.2 (Nat.not_lt.1 h)
  rw [sourceOf_code] at hnone
  cases hnone

theorem getLsbD_sources_code (s : State) (k : Source) : s.sources.getLsbD k.code = s.source k := by
  rw [getLsbD_sources, sourceFlag_code, decide_eq_true k.code_lt, Bool.true_and]

theorem getLsbD_sources_above (s : State) {n : Nat} (h : 25 ≤ n) : s.sources.getLsbD n = false := by
  rw [getLsbD_sources, decide_eq_false (Nat.not_lt.2 h), Bool.false_and]

/-! ### READ_DEVICE_STATUS (R188) -/

theorem logStatus_opened (s : State) (p : Port) : logStatus (s.opened p) = logStatus s := by
  cases p <;> rfl

theorem pendingTimed_opened {s : State} {p : Port} (h : s.takes p = true) :
    (s.opened p).pendingTimed = s.pendingTimed := by
  cases p with
  | site => rfl
  | authority =>
    rw [State.pendingTimed_eq_none.2 (State.takes_iff.1 h).2]
    rfl

theorem portStatus_opened {s : State} {p : Port} (h : s.takes p = true) :
    portStatus (s.opened p) p = portStatus s p := by
  rw [portStatus, pendingTimed_opened h, conditions_opened, State.opened_port]
  rfl

theorem readDeviceStatusRule_opened {s : State} {p : Port} (h : s.takes p = true) :
    readDeviceStatusRule p [] (s.opened p) = .complete (s.opened p) .ok (deviceStatus s p) := by
  rw [readDeviceStatusRule, logStatus_opened, portStatus_opened h]
  cases p <;> rfl

theorem oldest_seq_eq (log : Log) :
    (log.oldest.map fun r => r.1.seq.toNat) = log.all.head?.map fun r => r.seq.toNat := by
  rw [log.oldest_eq, Option.map_map]
  rfl

/-! ### READ_CHANNEL_STATUS (R189) -/

theorem readChannelStatusRule_range {b : Byte} (h : 8 ≤ b.toNat) (s : State) :
    readChannelStatusRule [b] s = refuse s .range := by
  rw [readChannelStatusRule, arg1_zero, finOf_eq_none.2 h]

theorem readChannelStatusRule_opened (s : State) (p : Port) (c : Channel) :
    readChannelStatusRule (put1 c.val) (s.opened p) =
      .complete (s.opened p) .ok (channelStatus (s.channel c) s.settings.bgMin) := by
  simp only [readChannelStatusRule, arg1_channel, State.opened_channel, State.opened_settings, channelStatus]

theorem allowance_code_eq (ch : ChannelState) :
    ch.allowance.code = (ch.interval.map fun iv => iv.allowance.code).getD 0 := by
  unfold ChannelState.allowance
  cases ch.interval <;> rfl

theorem bind_runningLevel_eq (interval : Option Interval) :
    interval.bind Interval.runningLevel = interval.bind fun iv =>
      if iv.measured + iv.concealed = 0 then none
      else some (lconv (iv.sumTot / (iv.measured + iv.concealed))) :=
  congrArg _ (funext Interval.runningLevel_eq)

/-! ### READ_CONFIG (R190) -/

theorem configSection_range {n : Nat} (h : 7 ≤ n) (s : State) : configSection s n = none := by
  unfold configSection
  iterate 7 rw [if_neg (by omega)]

theorem configSection_opened (s : State) (p : Port) (n : Nat) : configSection (s.opened p) n = configSection s n := by
  cases p <;> rfl

theorem readConfigRule_opened {s : State} {b : Byte} {data : List Byte} (h : configSection s b.toNat = some data)
    (p : Port) : readConfigRule [b] (s.opened p) = .complete (s.opened p) .ok data := by
  rw [readConfigRule, arg1_zero, configSection_opened, h]

/-- READ_CONFIG of a section that does not exist (R190). -/
theorem exec_readConfig_range {s : State} {p : Port} {b : Byte} (htakes : s.takes p = true) (h : 7 ≤ b.toNat) :
    exec (.readConfig p (framed [b])) s = .next (s.refusedWith p .range) :=
  bothCommand_refused htakes rfl (by decide) (by rw [readConfigRule, arg1_zero, configSection_range h])

/-- READ_CONFIG of a section (R190). -/
theorem exec_readConfig {s : State} {p : Port} {b : Byte} {data : List Byte} (htakes : s.takes p = true)
    (h : configSection s b.toNat = some data) :
    exec (.readConfig p (framed [b])) s = .next (s.answered p s .ok data) :=
  bothCommand_answered htakes rfl (by decide) (readConfigRule_opened h p) rfl

theorem routeBytes_eq (s : State) :
    s.matrix.routes.toList.flatMap putRoute =
      (List.finRange 8).flatMap fun l =>
        put1 (s.matrix.routes.get l).source.code ++ put1 (s.matrix.routes.get l).polarity.code := by
  rw [Oct.toList_eq_map, List.flatMap_map]
  rfl

/-- The channels that are not OFF, as READ_CONFIG returns them (R190). -/
theorem member_enabledSet (s : State) (c : Channel) :
    member (setOf fun c => (s.channel c).enabled) c = decide ((s.channel c).link ≠ .off) :=
  member_setOf _ c

/-- Settles O32: each read by its rule, the groups of a status in the order of its table. -/
theorem statusReadsChangeNothing : Obligations.StatusReadsChangeNothing := by
  intro p s htakes
  refine ⟨⟨s.outs, s.sources, deviceStatus s p, member_setOf s.out, getLsbD_sources_code s,
    fun n => getLsbD_sources_above s, ?_, length_deviceStatus s p, ?_⟩, fun b hb => ?_, fun c ch hch =>
    ⟨channelStatus ch s.settings.bgMin, ?_, length_channelStatus ch s.settings.bgMin, ?_⟩,
    fun b => exec_readConfig_range htakes, exec_readConfig htakes rfl, exec_readConfig htakes rfl,
    exec_readConfig htakes rfl, exec_readConfig htakes rfl,
    ⟨setOf fun c => (s.channel c).enabled, member_enabledSet s, exec_readConfig htakes rfl⟩,
    exec_readConfig htakes rfl, ?_⟩
  · refine congrArg₂ (· ++ ·) ?_ (congrArg (· ++ _) ?_)
    · simp only [timeStatus, lineStatus, episodeStatus, logStatus, putTime, List.append_assoc, Log.length_all,
        oldest_seq_eq]
      rfl
    · unfold State.pendingTimed
      cases s.authority.command with
      | idle => rfl
      | done r => rfl
      | busy t => cases t <;> rfl
  · exact bothCommand_answered htakes rfl (by decide) (readDeviceStatusRule_opened htakes) rfl
  · exact bothCommand_refused htakes rfl (by decide) (readChannelStatusRule_range hb _)
  · simp only [channelStatus, linkStatus, intervalStatus, eventStatus, List.append_assoc, allowance_code_eq,
      bind_runningLevel_eq, Estimator.level_eq]
    rfl
  · subst hch
    exact bothCommand_answered htakes rfl (by decide) (readChannelStatusRule_opened s p c) rfl
  · rw [← routeBytes_eq]
    exact exec_readConfig htakes rfl

end Sys2Proof.Machine
end

section
/-! PROOFS. The block's step at its queue, the two ports kept apart, and the state after power-on. -/

namespace Sys2Proof.Machine

/-! ### The queue -/

/-- Settles O1: the step reads nothing but the front of the queue. -/
theorem stepRunsTheFrontCommand : Obligations.StepRunsTheFrontCommand := by
  refine ⟨fun c s => rfl, fun s hempty => ?_⟩
  rw [step, hempty]

/-! ### The two ports (chapter 10, section 10.1) -/

/-- Settles O10: the fall of chip-select changes one port, and a transaction keeps the other. -/
theorem portsDoNotReachEachOther : Obligations.PortsDoNotReachEachOther := by
  rintro i p s t (rfl | ⟨bytes, hbytes⟩) hexec
  · rw [next_inj hexec]
    exact State.mapPort_port_other _ _ _
  · obtain ⟨t', hexec', -, hother, -⟩ := exec_transaction (wellFormed_of_next hexec) hbytes s
    cases hexec'.symm.trans hexec
    exact hother

/-! ### The values at power-on -/

theorem exec_powerOn (s : State) : exec .powerOn s = .next (powerOnState s) := rfl

/-- The part as State.reset has it is the part after a power-on with NRST high, the lines low and no transaction. -/
theorem powerOnState_reset : powerOnState State.reset = State.reset := rfl

theorem powerOnState_port (s : State) (p : Port) :
    (powerOnState s).port p = PortState.resetWith (s.port p).spoiled := by
  cases p <;> rfl

theorem powerOnState_channel (s : State) (c : Channel) : (powerOnState s).channel c = ChannelState.reset :=
  Oct.get_fill _ c

theorem Timebase.reset_slots_get (profile : Profile) (i : Fin 96) : (Timebase.reset.slots profile).get i = 0 := by
  cases profile <;> exact Vector.get_replicate _ _ i

theorem Timebase.reset_classes_get (i : Fin 12) : Timebase.reset.classes.get i = ClassParams.reset :=
  Vector.get_replicate _ _ i

/-- Settles O33: State.reset is itself a state after power-on, and power-on gives every block its reset value. -/
theorem powerOnGivesTheResetValues : Obligations.PowerOnGivesTheResetValues := by
  refine ⟨fun s => ⟨_, exec_powerOn s, rfl, rfl, fun p => by rw [powerOnState_port]; rfl⟩, fun t ht => ?_⟩
  obtain ⟨s, rfl⟩ : ∃ s, t = powerOnState s := by
    rcases ht with rfl | ⟨s, hexec⟩
    · exact ⟨State.reset, powerOnState_reset.symm⟩
    · exact ⟨s, next_inj hexec⟩
  refine ⟨rfl, rfl, rfl, rfl, rfl, rfl, rfl, rfl, fun i => ?slots, rfl, rfl, rfl, rfl, Timebase.reset_classes_get,
    rfl, powerOnState_channel s, rfl, rfl, rfl, rfl, Oct.get_fill _, fun p => ?port⟩
  case slots => exact ⟨Timebase.reset_slots_get .working i, Timebase.reset_slots_get .rest i⟩
  case port =>
    rw [powerOnState_port]
    exact ⟨rfl, rfl, Oct.get_fill _, rfl, rfl, rfl, rfl⟩

/-! ### The invariants at power-on -/

theorem State.reset_channel (c : Channel) : State.reset.channel c = ChannelState.reset :=
  powerOnState_channel State.reset c

theorem Settings.reset_inRange : Settings.reset.InRange := by
  simp [Settings.InRange, Settings.reset]

theorem State.reset_settingsOk : State.reset.SettingsOk :=
  ⟨fun i => (Timebase.reset_classes_get i).symm ▸ ClassParams.reset_inRange, Settings.reset_inRange, by decide⟩

theorem State.reset_linksOk : State.reset.LinksOk :=
  ⟨by decide, by decide, by decide, fun c => State.reset_channel c ▸ ChannelState.reset_linkOk⟩

/-- An OFF channel at its reset values holds no open work. -/
theorem ChannelState.reset_workOk : ChannelState.reset.WorkOk :=
  ChannelState.workOk_of_idle rfl rfl rfl fun _ => ⟨rfl, rfl, rfl, rfl, rfl⟩

theorem ChannelState.reset_energyOk : ChannelState.reset.EnergyOk :=
  ChannelState.energyOk_of_reset rfl rfl rfl rfl rfl

theorem State.reset_energiesOk : State.reset.EnergiesOk :=
  ⟨by decide, fun c => State.reset_channel c ▸ ChannelState.reset_workOk,
    fun c => State.reset_channel c ▸ ChannelState.reset_energyOk⟩

theorem PortState.resetWith_legal (x : Option Transaction) (p : Port) : (PortState.resetWith x).Legal p :=
  PortState.legal_of_clear rfl (fun _ => CommandState.noConfusion) trivial

/-- Settles O59: nothing is held, every setting is at a value in its range, and N, C and the lag are 1, 1 and 0. -/
theorem resetMeetsTheInvariants : Obligations.ResetMeetsTheInvariants := by
  have hlegal : ∀ p, (State.reset.port p).Legal p := fun p => by
    rw [← powerOnState_reset, powerOnState_port]
    exact PortState.resetWith_legal _ p
  obtain ⟨hports, hsite, hauthority⟩ := portsLegal_iff.1 hlegal
  exact ⟨Timebase.restDaysOk_of_empty rfl, State.reset_settingsOk, State.reset_linksOk, Log.ok_of_all_eq_nil rfl,
    State.reset_energiesOk, hports, hsite, hauthority, by decide⟩

end Sys2Proof.Machine
end
